-- ==== Sys2Proof/Word.lean ====
section
/-! DEFINITION. The words of the SFTE: bytes, 16-bit notification codes and 32-bit registers (00_scope.md R10). -/

namespace Sys2Proof

/-- One byte of a memory (u8 of R10). -/
abbrev Byte := BitVec 8

/-- A 16-bit notification code (30_encoding.md R78, R79). -/
abbrev Code := BitVec 16

/-- A 32-bit register, offset or command word (u32 of R10). -/
abbrev Word := BitVec 32

end Sys2Proof
end

