-- ==== Sys2Proof/Config.lean ====
section
/-! DEFINITION. The implementation parameters of 00_scope.md R8 as one record, and the example configuration EX of R17.
The spec leaves most of them OPEN, "the model takes it as an argument": the record is data of the machine's state, and
every statement about every state is about every configuration (log 1). -/

namespace Sys2Proof

/-- R8: every parameter but the two tick durations, which no rule uses (70_reset_and_hazards.md R156; 93 I7).
Where R8 gives a value it is the field's default. -/
structure Params where
  shmSize : Nat
  bufCap : Nat
  offBuf : Word
  offSize : Word
  offTag : Word
  offCount : Word
  ulRegionOff : Word
  dlmapOffBuf : Word
  dlmapOffSize : Word
  dlmapOffTag : Word
  dlmapOffCount : Word
  hdrMagicOff : Word
  /-- Never read or written by the engine (20_memory.md R62); only R9 (a) speaks of it. -/
  hdrBufoffOff : Word
  dlMagic : Word
  crashRxOff : Word
  crashLen : Nat
  xferBufMax : Nat
  codeDlReady : Code
  codeFrameAck : Code
  codeBooting : Code
  codeUlReady : Code
  codeUlFrameReady : Code
  codeFrameSent : Code
  codeXmitSent : Code
  codeStartExec : Code
  codeInitEnd : Code
  initCaps : Code
  codeUlBegin : Code
  codeUlFrameAck : Code
  tagBin : Word
  tagNv : Word
  tagUlEnd : Word
  nPrepare : Word := 1000#32
  nWaitNv : Word := 200#32
  nWaitBin : Word := 1000#32
  nBoot : Word := 200#32
  nUlHs : Word := 200#32
  nUlFrame : Word := 200#32
  fDlMap : Bool := true
  fXmit : Bool := true
  fIoctl : Bool := true
  fCrashLog : Bool := true
  nvCountIncrements : Bool := true
  hostAddrW : Nat := 32
deriving DecidableEq, Repr

/-- R17: the example configuration EX. "Its values are the spec's own illustration, not the hardware's". -/
def Params.ex : Params where
  shmSize := 0x8000
  bufCap := 0x1000
  offBuf := 0x0100#32
  offSize := 0x0010#32
  offTag := 0x0014#32
  offCount := 0x0018#32
  ulRegionOff := 0x4000#32
  dlmapOffBuf := 0x2100#32
  dlmapOffSize := 0x2000#32
  dlmapOffTag := 0x2004#32
  dlmapOffCount := 0x2008#32
  hdrMagicOff := 0x0000#32
  hdrBufoffOff := 0x0004#32
  dlMagic := 0xAAAA5555#32
  crashRxOff := 0x6000#32
  crashLen := 0x100
  xferBufMax := 0x100000
  codeDlReady := 0x0A01#16
  codeFrameAck := 0x0A02#16
  codeBooting := 0x0A03#16
  codeUlReady := 0x0B01#16
  codeUlFrameReady := 0x0B02#16
  codeFrameSent := 0x0C01#16
  codeXmitSent := 0x0C02#16
  codeStartExec := 0x0C03#16
  codeInitEnd := 0x0C00#16
  initCaps := 0x0004#16
  codeUlBegin := 0x0D01#16
  codeUlFrameAck := 0x0D02#16
  tagBin := 1#32
  tagNv := 2#32
  tagUlEnd := 0xFF#32

end Sys2Proof
end

