-- ==== Sys2Proof/Syntax.lean ====
section
/-! DEFINITION. The command set, one constructor per row of the opcode table (30_encoding.md R74), and the names of the
host's register window (10_state.md R22). -/

namespace Sys2Proof

/-- The direction of a map (10_state.md R32): the one operand field a command word has (30_encoding.md R73). -/
inductive Direction where
  | download
  | upload
deriving DecidableEq, Repr

/-- R74: the twelve commands. -/
inductive Instr where
  | mapBoot (dir : Direction)
  | mapDl
  | setMagic
  | prepare
  | loadBin
  | loadNv
  | xmit
  | ulStep1
  | ulStep2
  | bootStart
  | cpStart
  | crashLog
deriving DecidableEq, Repr

/-- R22: the registers of the host's window. -/
inductive Reg where
  | cmd | status | result | ctrl | irqStatus | irqEnable
  | xferSrc | xferTotal | xferFrameCap | xferCount | ulDst | ulDstLen | crashDst
  | mapBuf | mapSize | mapTag | mapCount | mapInfo
  | progTotal | progRemain | progSent
  | curSrc | curFrame | curTag | curCount
  | ulLastSize | ulLastTag | ulLastCount
  | mbxInView | mbxOutView | lastUnrecog | pollLeft | caps
deriving DecidableEq, Repr

end Sys2Proof
end

