-- ==== Sys2Proof/WellFormed.lean ====
section
/-! DEFINITION. What makes a configuration well formed (00_scope.md R8's ranges and R9), the configuration that cannot be
built otherwise, and which commands a configuration has (R14). -/

namespace Sys2Proof

/-- The ranges of R8's table for the parameters that hold a count of bytes or of polls. -/
def Params.rangesOk (p : Params) : Bool :=
  decide (1 ≤ p.shmSize) && decide (p.shmSize ≤ 2 ^ 32) &&
  decide (1 ≤ p.bufCap) && decide (p.bufCap ≤ p.shmSize) &&
  decide (p.crashLen ≤ p.shmSize) &&
  decide (1 ≤ p.xferBufMax) && decide (p.xferBufMax < 2 ^ 32) &&
  decide (p.nPrepare ≠ 0#32) && decide (p.nWaitNv ≠ 0#32) && decide (p.nWaitBin ≠ 0#32) &&
  decide (p.nBoot ≠ 0#32) && decide (p.nUlHs ≠ 0#32) && decide (p.nUlFrame ≠ 0#32)

/-- R9 (a) for one metadata field: aligned, and its four bytes inside the window. -/
def Params.fieldOk (p : Params) (off : Nat) : Bool :=
  decide (off % 4 = 0) && decide (off + 4 ≤ p.shmSize)

/-- R9 (a): every metadata field offset. -/
def Params.fieldsOk (p : Params) : Bool :=
  p.fieldOk p.offSize.toNat && p.fieldOk p.offTag.toNat && p.fieldOk p.offCount.toNat &&
  p.fieldOk p.dlmapOffSize.toNat && p.fieldOk p.dlmapOffTag.toNat && p.fieldOk p.dlmapOffCount.toNat &&
  p.fieldOk p.hdrMagicOff.toNat && p.fieldOk p.hdrBufoffOff.toNat &&
  p.fieldOk (p.ulRegionOff.toNat + p.offSize.toNat) &&
  p.fieldOk (p.ulRegionOff.toNat + p.offTag.toNat) &&
  p.fieldOk (p.ulRegionOff.toNat + p.offCount.toNat)

/-- R9 (b): each map's buffer lies inside the window. -/
def Params.buffersOk (p : Params) : Bool :=
  decide (p.offBuf.toNat + p.bufCap ≤ p.shmSize) &&
  decide (p.ulRegionOff.toNat + p.offBuf.toNat + p.bufCap ≤ p.shmSize) &&
  decide (p.dlmapOffBuf.toNat + p.bufCap ≤ p.shmSize)

/-- The ranges `[a, a+n)` and `[b, b+m)` share no byte. -/
def rangesApart (a n b m : Nat) : Bool :=
  decide (a + n ≤ b) || decide (b + m ≤ a)

/-- R9 (c) for one map. -/
def Params.mapApart (p : Params) (buf size tag count : Nat) : Bool :=
  rangesApart buf p.bufCap size 4 && rangesApart buf p.bufCap tag 4 && rangesApart buf p.bufCap count 4 &&
  rangesApart size 4 tag 4 && rangesApart size 4 count 4 && rangesApart tag 4 count 4

/-- R9 (c): within each of the three maps the buffer and the fields are pairwise disjoint. -/
def Params.mapsApart (p : Params) : Bool :=
  p.mapApart p.offBuf.toNat p.offSize.toNat p.offTag.toNat p.offCount.toNat &&
  p.mapApart (p.ulRegionOff.toNat + p.offBuf.toNat) (p.ulRegionOff.toNat + p.offSize.toNat)
    (p.ulRegionOff.toNat + p.offTag.toNat) (p.ulRegionOff.toNat + p.offCount.toNat) &&
  p.mapApart p.dlmapOffBuf.toNat p.dlmapOffSize.toNat p.dlmapOffTag.toNat p.dlmapOffCount.toNat

/-- R9 (d): the crash buffer lies inside the window. -/
def Params.crashOk (p : Params) : Bool :=
  decide (p.crashRxOff.toNat + p.crashLen ≤ p.shmSize)

/-- R9 (e): the three codes the Notification unit knows are distinct and none is 0x9999. -/
def Params.codesOk (p : Params) : Bool :=
  decide (p.codeDlReady ≠ p.codeFrameAck) && decide (p.codeDlReady ≠ p.codeBooting) &&
  decide (p.codeFrameAck ≠ p.codeBooting) && decide (p.codeDlReady ≠ 0x9999#16) &&
  decide (p.codeFrameAck ≠ 0x9999#16) && decide (p.codeBooting ≠ 0x9999#16)

/-- R9 (f): the two download tags are distinct and non-zero. -/
def Params.tagsOk (p : Params) : Bool :=
  decide (p.tagBin ≠ p.tagNv) && decide (p.tagBin ≠ 0#32) && decide (p.tagNv ≠ 0#32)

/-- R9, with the ranges of R8. -/
def Params.wf (p : Params) : Bool :=
  p.rangesOk && p.fieldsOk && p.buffersOk && p.mapsApart && p.crashOk && p.codesOk && p.tagsOk

/-- R9: "A model must refuse a configuration that breaks one" (93 I18: "the model does not instantiate"): a configuration
is the parameters with the proof that they are well formed, so an ill-formed one cannot be built. -/
structure Config extends Params where
  valid : toParams.wf = true
deriving DecidableEq, Repr

/-- EX of R17, which the spec says is well formed. -/
def Config.ex : Config where
  toParams := Params.ex
  valid := by decide

/-- R14: whether the configuration has the feature a command needs. -/
def Instr.present (p : Params) : Instr → Bool
  | .mapBoot _ => true
  | .mapDl => p.fDlMap
  | .setMagic => true
  | .prepare => p.fIoctl
  | .loadBin => p.fIoctl
  | .loadNv => p.fIoctl
  | .xmit => p.fXmit
  | .ulStep1 => p.fIoctl
  | .ulStep2 => p.fIoctl
  | .bootStart => p.fIoctl
  | .cpStart => true
  | .crashLog => p.fCrashLog

end Sys2Proof
end

