-- ==== Sys2Proof/Decode.lean ====
section
/-! DEFINITION. From a command word to a command (30_encoding.md R72 to R77) and back. Decoding is total: a word is a
command or is rejected by name. Whether the configuration has the command's feature is asked after it (R76, `validCommand`). -/

namespace Sys2Proof

/-- Why a word is no command (R77). Each is reported by the machine as the result INVALID (R76). -/
inductive DecodeError where
  /-- A bit of CMD[31:9] is 1. -/
  | reservedBits
  /-- CMD[7:0] is no assigned OPCODE of R74. -/
  | unassignedOpcode
  /-- CMD[8] is 1 and the OPCODE is not MAP_BOOT's. -/
  | directionBit
deriving DecidableEq, Repr

/-- R72: OPCODE = CMD[7:0]. -/
def opcodeField (w : Word) : BitVec 8 := w.extractLsb' 0 8

/-- R72: DIR = CMD[8]. -/
def dirField (w : Word) : BitVec 1 := w.extractLsb' 8 1

/-- R72: the reserved bits CMD[31:9]. -/
def reservedField (w : Word) : BitVec 23 := w.extractLsb' 9 23

/-- R72: DIR 0 is download, 1 is upload. -/
def Direction.ofBit (b : BitVec 1) : Direction :=
  if b = 1#1 then .upload else .download

/-- R72, R32: the bit of a direction. -/
def Direction.bit : Direction → BitVec 1
  | .download => 0#1
  | .upload => 1#1

/-- R74: the assigned opcodes; the direction is MAP_BOOT's operand. -/
def instrOfOpcode (op : BitVec 8) (dir : Direction) : Option Instr :=
  if op = 0x01#8 then some (.mapBoot dir)
  else if op = 0x02#8 then some .mapDl
  else if op = 0x03#8 then some .setMagic
  else if op = 0x10#8 then some .prepare
  else if op = 0x11#8 then some .loadBin
  else if op = 0x12#8 then some .loadNv
  else if op = 0x13#8 then some .xmit
  else if op = 0x20#8 then some .ulStep1
  else if op = 0x21#8 then some .ulStep2
  else if op = 0x30#8 then some .bootStart
  else if op = 0x31#8 then some .cpStart
  else if op = 0x40#8 then some .crashLog
  else none

/-- R76: the conditions on the word itself, in `valid`'s order. -/
def decode (w : Word) : Except DecodeError Instr :=
  if reservedField w ≠ 0#23 then .error .reservedBits
  else
    match instrOfOpcode (opcodeField w) (Direction.ofBit (dirField w)) with
    | none => .error .unassignedOpcode
    | some i =>
      if dirField w = 1#1 ∧ opcodeField w ≠ 0x01#8 then .error .directionBit
      else .ok i

/-- R76: the command a word is under a configuration, its feature asked; `none` is an invalid word. -/
def validCommand (p : Params) (w : Word) : Option Instr :=
  match decode w with
  | .error _ => none
  | .ok i => if i.present p then some i else none

/-- R74: a command's OPCODE. -/
def Instr.opcode : Instr → BitVec 8
  | .mapBoot _ => 0x01#8
  | .mapDl => 0x02#8
  | .setMagic => 0x03#8
  | .prepare => 0x10#8
  | .loadBin => 0x11#8
  | .loadNv => 0x12#8
  | .xmit => 0x13#8
  | .ulStep1 => 0x20#8
  | .ulStep2 => 0x21#8
  | .bootStart => 0x30#8
  | .cpStart => 0x31#8
  | .crashLog => 0x40#8

/-- R72: a command's DIR bit, 0 for every command but MAP_BOOT. -/
def Instr.dirBit : Instr → BitVec 1
  | .mapBoot dir => dir.bit
  | .mapDl => 0#1
  | .setMagic => 0#1
  | .prepare => 0#1
  | .loadBin => 0#1
  | .loadNv => 0#1
  | .xmit => 0#1
  | .ulStep1 => 0#1
  | .ulStep2 => 0#1
  | .bootStart => 0#1
  | .cpStart => 0#1
  | .crashLog => 0#1

/-- R72: the word of a command: 23 zeros, DIR, OPCODE. -/
def encode (i : Instr) : Word := 0#23 ++ i.dirBit ++ i.opcode

/-- The host's question: the command this decoder reads from a table word of `nbits` bits, the bits above them 0. A
command is exactly 32 bits (R72), so a number that needs more is none. -/
def decodeTableWord (nbits w : Nat) : Option Instr :=
  let bits := w % 2 ^ nbits
  if bits < 2 ^ 32 then
    match decode (BitVec.ofNat 32 bits) with
    | .ok i => some i
    | .error _ => none
  else none

/-- R22: the register at an offset of the host's window; `none` where no register is. -/
def regAt (off : Nat) : Option Reg :=
  match off with
  | 0x00 => some .cmd
  | 0x04 => some .status
  | 0x08 => some .result
  | 0x0C => some .ctrl
  | 0x10 => some .irqStatus
  | 0x14 => some .irqEnable
  | 0x18 => some .xferSrc
  | 0x1C => some .xferTotal
  | 0x20 => some .xferFrameCap
  | 0x24 => some .xferCount
  | 0x28 => some .ulDst
  | 0x2C => some .ulDstLen
  | 0x30 => some .crashDst
  | 0x34 => some .mapBuf
  | 0x38 => some .mapSize
  | 0x3C => some .mapTag
  | 0x40 => some .mapCount
  | 0x44 => some .mapInfo
  | 0x48 => some .progTotal
  | 0x4C => some .progRemain
  | 0x50 => some .progSent
  | 0x54 => some .curSrc
  | 0x58 => some .curFrame
  | 0x5C => some .curTag
  | 0x60 => some .curCount
  | 0x64 => some .ulLastSize
  | 0x68 => some .ulLastTag
  | 0x6C => some .ulLastCount
  | 0x70 => some .mbxInView
  | 0x74 => some .mbxOutView
  | 0x78 => some .lastUnrecog
  | 0x7C => some .pollLeft
  | 0x80 => some .caps
  | _ => none

end Sys2Proof
end

