-- ==== Sys2Proof/Machine/State.lean ====
section
/-! DEFINITION. The state of the SFTE: 10_state.md's registers and hidden state, the two memories, and the model's own
fields (the event history of 00_scope.md R13, the schedule of 60_exceptions.md R128, the data of the last host read). -/

namespace Sys2Proof.Machine

/-- Why the machine stops. No instruction stops on ordinary data: every one of these is an access to an address that does
not exist, and no engine access of a run reaches one (20_memory.md R56, R63). -/
inductive Fault where
  /-- An engine access of `width` bytes at window offset `off` passes SHM_SIZE (R56: "A model may treat a call that breaks
  it as a fault; no run reaches one"). Raised by the window operations of Ops. Safe. -/
  | windowRange (off width : Nat)
  /-- An engine 4-byte access at a window offset that is no multiple of 4 (R55, R56). Raised by the window operations of
  Ops. Safe. -/
  | windowAlign (off : Nat)
  /-- An engine access to a host address at or above 2^HOST_ADDR_W (R63: the engine is "stuck"; 93 I29). Raised by the
  host-memory operations of Ops. Safe. -/
  | hostRange (addr : Nat)
  /-- A peer turn names window bytes at or above SHM_SIZE, which do not exist. Raised by the peer port. Safe. -/
  | peerRange (off width : Nat)
  /-- A host turn that writes the host's own memory names bytes at or above 2^HOST_ADDR_W. Raised by the host port. Safe. -/
  | ownerRange (addr width : Nat)
deriving DecidableEq, Repr

/-- Why the model gives no meaning. -/
inductive Refusal where
  /-- An arm of exec with no meaning yet. Raised by no arm of this model. Safe. -/
  | notModelled (mnemonic : String)
deriving DecidableEq, Repr

/-- 10 R25: RESULT.CODE. Values 6 to 255 are never produced. -/
inductive ResultCode where
  | none | ok | timeout | mismatch | nomem | invalid
deriving DecidableEq, Repr

/-- 10 R37: DL_STATE. Values 6 and 7 never occur. -/
inductive DlState where
  | idle | awaitingPeerReady | peerReady | transferring | complete | timeoutFailed
deriving DecidableEq, Repr

/-- 10 R38: UL_STATE. Values 5 to 7 never occur. -/
inductive UlState where
  | idle | handshake | frameLoop | done | timeoutFailed
deriving DecidableEq, Repr

/-- 10 R39: BOOT_STATE. Values 5 to 7 never occur. -/
inductive BootState where
  | none | waitBooting | booted | initEndSent | timeoutFailed
deriving DecidableEq, Repr

/-- 10 R32: MAP_INFO.SEL. -/
inductive MapSel where
  | boot | secondary
deriving DecidableEq, Repr

/-- 10 R40: the three completion latches. -/
inductive Latch where
  | copyStarted | copyComplete | bootComplete
deriving DecidableEq, Repr

/-- 10 R51: who holds the shared port. -/
inductive PortLock where
  | free | command | continuation
deriving DecidableEq, Repr

/-- 10 R29, R30: seven operands, as the host wrote them or as a command sampled them. -/
structure Operands where
  src : Word
  total : Word
  cap : Word
  count : Word
  ulDst : Word
  ulLen : Word
  crashDst : Word
deriving DecidableEq, Repr

/-- 10 R31: the current map's four window offsets. -/
structure FrameMap where
  buf : Word
  size : Word
  tag : Word
  count : Word
deriving DecidableEq, Repr

/-- 10 R33: the progress counters. -/
structure Progress where
  total : Word
  remain : Word
  sent : Word
deriving DecidableEq, Repr

/-- 10 R34: the in-flight descriptor. -/
structure Descriptor where
  src : Word
  frame : Word
  tag : Word
  count : Word
deriving DecidableEq, Repr

/-- 10 R36: the fields of the last upload frame. -/
structure UploadFields where
  size : Word
  tag : Word
  count : Word
deriving DecidableEq, Repr

/-- 10 R46: LAST_UNRECOG. -/
structure Unrecognized where
  valid : Bool
  code : Code
deriving DecidableEq, Repr

/-- The next access of a FrameTransfer (41_download.md R88): reading source byte `i` (or, past the frame, writing the size
field), writing the byte held, and the fields and signal after the payload. -/
inductive FramePos where
  | byte (i : Nat)
  | put (i : Nat) (b : Byte)
  | tag
  | count
  | send
deriving DecidableEq, Repr

/-- The next access of XMIT's XFER (41 R99). -/
inductive XmitPos where
  | byte (i : Nat)
  | put (i : Nat) (b : Byte)
  | send
deriving DecidableEq, Repr

/-- The next access of UL_STEP2's READ (42_upload.md R102), with the fields read so far. -/
inductive UploadPos where
  | size
  | tag (size : Word)
  | count (size tag : Word)
  | byte (size tag : Word) (i : Nat)
  | put (size tag : Word) (i : Nat) (b : Byte)
deriving DecidableEq, Repr

/-- The next access of CRASH_LOG's COPY (45_diagnostic.md R116). -/
inductive CrashPos where
  | byte (i : Nat)
  | put (i : Nat) (b : Byte)
deriving DecidableEq, Repr

/-- 10 R50: the Command unit's phase. `decode` is the step of 30_encoding.md R76 right after acceptance and `start` the
command's first phase; the others are phases the commands' rules name. -/
inductive Phase where
  | idle
  | decode
  | start
  | frame (p : FramePos)
  | wait
  | xmit (p : XmitPos)
  | poll
  | lastChance
  | success
  | upload (p : UploadPos)
  | crash (p : CrashPos)
deriving DecidableEq, Repr

/-- The Continuation unit: between steps, or inside the access sequence of one (41 R96). -/
inductive ContPhase where
  | idle
  | frame (p : FramePos)
deriving DecidableEq, Repr

/-- Who made a memory access, for the history. -/
inductive Agent where
  | engine | peer | host
deriving DecidableEq, Repr

/-- 00 R13: an entry of the event history. Values of memory accesses are little-endian numbers. -/
inductive Event where
  | memRd (who : Agent) (off width value : Nat)
  | memWr (who : Agent) (off width value : Nat)
  | hostRd (who : Agent) (addr value : Nat)
  | hostWr (who : Agent) (addr value : Nat)
  | send (code : Code)
  | takeIn (code : Code)
  | peekIn (code : Code)
  | notify (code : Code)
  | overwritten (code : Code)
  | outOverwritten (code : Code)
  | peerRead (code : Code)
  | latchSet (l : Latch)
  | latchConsumed (l : Latch)
  | cmdStart (op : BitVec 8)
  | cmdDone (op : BitVec 8) (code : ResultCode)
  | dropped (code : Code)
deriving DecidableEq, Repr

/-- One turn of the schedule (60 R128): the agent that steps and, for an outside agent, what it does. -/
inductive Turn where
  /-- A host read of `width` bytes at an offset of the register window (10 R21). -/
  | hostRead (off width : Nat)
  /-- A host write of `width` bytes at an offset of the register window (10 R21). -/
  | hostWrite (off width : Nat) (v : Word)
  /-- The host writes its own memory (00 R7), which the engine only copies from and to. -/
  | hostStore (addr : Nat) (bytes : List Byte)
  /-- 43_notification.md R104. -/
  | peerNotify (c : Code)
  /-- 43 R105. -/
  | peerReadOut
  /-- 43 R106: the peer reads window bytes. -/
  | peerLoad (off width : Nat)
  /-- 43 R106: the peer writes window bytes. -/
  | peerStore (off : Nat) (bytes : List Byte)
  | command
  | continuation
  | notification
  /-- 70_reset_and_hazards.md R137: the reset input. -/
  | reset
deriving DecidableEq, Repr

/-- A byte memory, as the bytes that differ from what an unlisted address reads as, addresses rising. -/
abbrev Memory := List Host.Cell

/-- What an unlisted address of a memory reads as (DESIGN CHOICE, logs 4 and 5). -/
def unlistedByte : Byte := 0#8

/-- The machine. A word of 10_state.md R22 that is only a view (STATUS, RESULT, MAP_INFO, the mailbox views, CAPS) is
composed from these fields where the host reads it (Flags.lean, HostPort.lean). -/
structure State where
  /-- 00 R8: fixed for one instance. -/
  cfg : Config
  busy : Bool
  curOp : BitVec 8
  cmdw : Word
  phase : Phase
  lock : PortLock
  /-- The seven operand registers. -/
  opnd : Operands
  /-- OPS, the snapshot a command reads. -/
  ops : Operands
  resultCode : ResultCode
  lastOp : BitVec 8
  notifyEn : Bool
  irqStatus : BitVec 4
  irqEnable : BitVec 4
  map : FrameMap
  mapDir : Direction
  mapSel : MapSel
  prog : Progress
  cur : Descriptor
  ulLast : UploadFields
  dlState : DlState
  ulState : UlState
  bootState : BootState
  copyStarted : Bool
  copyComplete : Bool
  bootComplete : Bool
  contPending : Bool
  cont : ContPhase
  mbxIn : Code
  pend : Bool
  mbxOut : Code
  peerIrq : Bool
  lastUnrecog : Unrecognized
  pollLeft : Word
  window : Memory
  hostMem : Memory
  /-- The event history, NEWEST FIRST; model only (00 R13). -/
  history : List Event
  /-- Whose turn comes next; model only (log 2). -/
  agenda : List Turn
  /-- What the last host register read returned; model only (log 14). -/
  hostRdata : Word
deriving DecidableEq, Repr

/-- Seven zero operands (10 R29, R30). -/
def Operands.zero : Operands :=
  { src := 0#32, total := 0#32, cap := 0#32, count := 0#32, ulDst := 0#32, ulLen := 0#32, crashDst := 0#32 }

/-- The machine right after reset (70 R137, R138), for any configuration, any window contents (R139: "an arbitrary byte
array, chosen once at reset"), any host memory, and any schedule. -/
def State.powerOn (cfg : Config) (window hostMem : Memory) (agenda : List Turn) : State where
  cfg := cfg
  busy := false
  curOp := 0#8
  cmdw := 0#32
  phase := .idle
  lock := .free
  opnd := Operands.zero
  ops := Operands.zero
  resultCode := .none
  lastOp := 0#8
  notifyEn := true
  irqStatus := 0#4
  irqEnable := 0#4
  map := { buf := cfg.offBuf, size := cfg.offSize, tag := cfg.offTag, count := cfg.offCount }
  mapDir := .download
  mapSel := .boot
  prog := { total := 0#32, remain := 0#32, sent := 0#32 }
  cur := { src := 0#32, frame := 0#32, tag := 0#32, count := 0#32 }
  ulLast := { size := 0#32, tag := 0#32, count := 0#32 }
  dlState := .idle
  ulState := .idle
  bootState := .none
  copyStarted := false
  copyComplete := false
  bootComplete := false
  contPending := false
  cont := .idle
  mbxIn := 0#16
  pend := false
  mbxOut := 0#16
  peerIrq := false
  lastUnrecog := { valid := false, code := 0#16 }
  pollLeft := 0#32
  window := window
  hostMem := hostMem
  history := []
  agenda := agenda
  hostRdata := 0#32

/-- The machine right after reset under the example configuration EX (00 R17; DESIGN CHOICE, log 1), with nothing listed
in either memory and nothing scheduled. -/
def State.reset : State := State.powerOn Config.ex [] [] []

end Sys2Proof.Machine
end

