-- ==== Sys2Proof/Machine/Ops.lean ====
section
/-! DEFINITION. The named operations every meaning is written with: memory, the two memory ports, the mailboxes, the
latches, the port lock, the bounded poll, and the end of a command (60_exceptions.md R118, R119), which is what stands in
for exception entry on a machine without traps (60 R117). -/

namespace Sys2Proof.Machine

/-- What a step of the machine answers. -/
abbrev Result := Host.Outcome State Fault Refusal

/-! ### Byte memories -/

/-- The byte at an address. -/
def Memory.read (m : Memory) (a : Nat) : Byte :=
  match m with
  | [] => unlistedByte
  | (b, v) :: rest => if a = b then v else Memory.read rest a

/-- The memory with one byte replaced. The result lists no byte equal to `unlistedByte`. -/
def Memory.write (m : Memory) (a : Nat) (v : Byte) : Memory :=
  match m with
  | [] => if v = unlistedByte then [] else [(a, v)]
  | (b, w) :: rest =>
    if a < b then (if v = unlistedByte then (b, w) :: rest else (a, v) :: (b, w) :: rest)
    else if a = b then (if v = unlistedByte then rest else (a, v) :: rest)
    else (b, w) :: Memory.write rest a v

/-- Addresses rise from `lo` on and no entry equals `unlistedByte`. -/
def Memory.wfFrom (lo : Nat) (m : Memory) : Bool :=
  match m with
  | [] => true
  | (a, v) :: rest => decide (lo ≤ a) && decide (v ≠ unlistedByte) && Memory.wfFrom (a + 1) rest

/-- The canonical form: addresses strictly rising, no entry equal to what an unlisted address reads as. -/
def Memory.wf (m : Memory) : Bool := Memory.wfFrom 0 m

/-- Every listed address is below `n`: the memory has no byte outside an address space of `n` bytes. -/
def Memory.within (n : Nat) (m : Memory) : Bool :=
  match m with
  | [] => true
  | (a, _) :: rest => decide (a < n) && Memory.within n rest

/-- Consecutive bytes from address `a` on, in address order. -/
def Memory.readBytes (m : Memory) (a : Nat) : Nat → List Byte
  | 0 => []
  | n + 1 => Memory.read m a :: Memory.readBytes m (a + 1) n

/-- Bytes written to consecutive addresses from `a` on, in address order. -/
def Memory.writeBytes (m : Memory) (a : Nat) : List Byte → Memory
  | [] => m
  | b :: bs => Memory.writeBytes (Memory.write m a b) (a + 1) bs

/-- 20_memory.md R57: the number little-endian bytes stand for. -/
def leValue : List Byte → Nat
  | [] => 0
  | b :: bs => b.toNat + 256 * leValue bs

/-- 20 R56: the four bytes of a word, least significant first. -/
def leBytes (v : Word) : List Byte :=
  [v.extractLsb' 0 8, v.extractLsb' 8 8, v.extractLsb' 16 8, v.extractLsb' 24 8]

/-- 20 R56: `{b3, b2, b1, b0}`, the word whose least significant byte is first in memory. -/
def leWord (b0 b1 b2 b3 : Byte) : Word := b3 ++ b2 ++ b1 ++ b0

/-- The word at four consecutive addresses. -/
def Memory.readWord (m : Memory) (a : Nat) : Word :=
  leWord (Memory.read m a) (Memory.read m (a + 1)) (Memory.read m (a + 2)) (Memory.read m (a + 3))

/-- The memory with the word at four consecutive addresses replaced. -/
def Memory.writeWord (m : Memory) (a : Nat) (v : Word) : Memory := Memory.writeBytes m a (leBytes v)

/-! ### The event history -/

/-- 00 R13: append an event (the history is held newest first). -/
def record (e : Event) (s : State) : State := { s with history := e :: s.history }

/-- 00 R13: the history in the order the events happened. -/
def State.events (s : State) : List Event := s.history.reverse

/-! ### The engine's ports -/

/-- 20 R56: `MemRead(addr, 1)`. -/
def memRead1 (a : Nat) (s : State) : Except Fault (Byte × State) :=
  if a < s.cfg.shmSize then
    .ok (Memory.read s.window a, record (.memRd .engine a 1 (Memory.read s.window a).toNat) s)
  else .error (.windowRange a 1)

/-- 20 R56: `MemRead(addr, 4)`, one access. -/
def memRead4 (a : Nat) (s : State) : Except Fault (Word × State) :=
  if a % 4 ≠ 0 then .error (.windowAlign a)
  else if a + 4 ≤ s.cfg.shmSize then
    .ok (Memory.readWord s.window a, record (.memRd .engine a 4 (Memory.readWord s.window a).toNat) s)
  else .error (.windowRange a 4)

/-- 20 R56: `MemWrite(addr, 1, v)`. -/
def memWrite1 (a : Nat) (v : Byte) (s : State) : Except Fault State :=
  if a < s.cfg.shmSize then
    .ok (record (.memWr .engine a 1 v.toNat) { s with window := Memory.write s.window a v })
  else .error (.windowRange a 1)

/-- 20 R56: `MemWrite(addr, 4, v)`, one access. -/
def memWrite4 (a : Nat) (v : Word) (s : State) : Except Fault State :=
  if a % 4 ≠ 0 then .error (.windowAlign a)
  else if a + 4 ≤ s.cfg.shmSize then
    .ok (record (.memWr .engine a 4 v.toNat) { s with window := Memory.writeWord s.window a v })
  else .error (.windowRange a 4)

/-- 20 R63: `HostRead(a, 1)`. -/
def hostRead1 (a : Nat) (s : State) : Except Fault (Byte × State) :=
  if a < 2 ^ s.cfg.hostAddrW then
    .ok (Memory.read s.hostMem a, record (.hostRd .engine a (Memory.read s.hostMem a).toNat) s)
  else .error (.hostRange a)

/-- 20 R63: `HostWrite(a, 1, v)`. -/
def hostWrite1 (a : Nat) (v : Byte) (s : State) : Except Fault State :=
  if a < 2 ^ s.cfg.hostAddrW then
    .ok (record (.hostWr .engine a v.toNat) { s with hostMem := Memory.write s.hostMem a v })
  else .error (.hostRange a)

/-- The address of byte `i` from a 32-bit offset or host address on: a sum without wrap (00 R10, R16), because the rules make
it only inside a range they have checked against 2^HOST_ADDR_W (20 R63) or that R9 keeps inside the window. -/
def byteAddr (base : Word) (i : Nat) : Nat := base.toNat + i

/-- Go on from an access that was made; an access that does not exist stops the machine. -/
def onOk {α : Type} (r : Except Fault α) (k : α → Result) : Result :=
  match r with
  | .ok a => k a
  | .error f => .fault f

/-! ### The mailboxes -/

/-- 43 R107: `TakeIn()` returns MBX_IN (which it leaves) and clears PEND. -/
def takeIn (s : State) : Code × State :=
  (s.mbxIn, record (.takeIn s.mbxIn) { s with pend := false })

/-- 43 R108: `PeekIn()` returns MBX_IN and changes no register. -/
def peekIn (s : State) : Code × State :=
  (s.mbxIn, record (.peekIn s.mbxIn) s)

/-- 43 R109: `Send(code)`. -/
def send (code : Code) (s : State) : State :=
  let s := if s.peerIrq then record (.outOverwritten s.mbxOut) s else s
  record (.send code) { s with mbxOut := code, peerIrq := true }

/-! ### The latches (10 R40) -/

/-- Set a latch; `LatchSet` is recorded even when it is already 1 (10 R40). -/
def setLatch (l : Latch) (s : State) : State :=
  record (.latchSet l)
    (match l with
     | .copyStarted => { s with copyStarted := true }
     | .copyComplete => { s with copyComplete := true }
     | .bootComplete => { s with bootComplete := true })

/-- Consume a latch. -/
def consumeLatch (l : Latch) (s : State) : State :=
  record (.latchConsumed l)
    (match l with
     | .copyStarted => { s with copyStarted := false }
     | .copyComplete => { s with copyComplete := false }
     | .bootComplete => { s with bootComplete := false })

/-! ### The end of a command -/

/-- 10 R27: the causes of IRQ_STATUS, as masks. -/
def irqCmdDone : BitVec 4 := 0b0001#4
def irqNotifyRx : BitVec 4 := 0b0010#4
def irqUnrecog : BitVec 4 := 0b0100#4
def irqOverrun : BitVec 4 := 0b1000#4

/-- Set a cause of IRQ_STATUS; it stays set until the host writes a 1 to it (60 R125). -/
def raiseIrq (mask : BitVec 4) (s : State) : State := { s with irqStatus := s.irqStatus ||| mask }

/-- 60 R118, R119: "the port lock is released if held" by the Command unit. -/
def PortLock.dropCommand : PortLock → PortLock
  | .free => .free
  | .command => .free
  | .continuation => .continuation

/-- 60 R119: `finish(code)`. -/
def finish (code : ResultCode) (s : State) : State :=
  record (.cmdDone (opcodeField s.cmdw) code)
    { raiseIrq irqCmdDone s with
      resultCode := code
      lastOp := opcodeField s.cmdw
      busy := false
      curOp := 0#8
      phase := .idle
      lock := s.lock.dropCommand }

/-- 60 R118: `raise Fail(code)`. The command's failure exit has run before it; what is left is `finish`, which abandons the
phases and releases the lock. -/
def fail (code : ResultCode) (s : State) : Result := .next (finish code s)

/-- 42 R100: the failure exit of both upload commands. -/
def ulFail (code : ResultCode) (s : State) : Result :=
  fail code { s with notifyEn := true, ulState := .timeoutFailed }

/-- 30 R75: acceptance of a command word. The next Command-unit step decodes it. -/
def accept (w : Word) (s : State) : State :=
  record (.cmdStart (opcodeField w))
    { s with busy := true, curOp := opcodeField w, cmdw := w, ops := s.opnd, phase := .decode }

/-! ### The port lock (10 R51) -/

/-- One access of a Command-unit access sequence: the unit holds (takes no step) while the Continuation unit owns the port,
and owns it itself from its first access on. -/
def commandAccess (s : State) (k : State → Result) : Result :=
  if s.lock = .continuation then .next s else k { s with lock := .command }

/-- The end of an access sequence that does not end its command. -/
def releaseCommand (s : State) : State := { s with lock := s.lock.dropCommand }

/-! ### Bounded polls (00 R12) -/

/-- Enter a poll: POLL_LEFT takes the budget as the phase is entered (00 R12 step 1, 41 R92; log 8). -/
def startPoll (n : Word) (ph : Phase) (s : State) : State := { s with pollLeft := n, phase := ph }

/-- 00 R12 steps 2 to 4: one poll tick. -/
def pollTick (c : Bool) (hit out : State → Result) (s : State) : Result :=
  if c then hit s
  else if s.pollLeft - 1#32 = 0#32 then out { s with pollLeft := s.pollLeft - 1#32 }
  else .next { s with pollLeft := s.pollLeft - 1#32 }

/-! ### FrameTransfer (41 R88) -/

/-- One access of FrameTransfer: the state after it and the next position, `none` after the Send. Each line reads the map
and descriptor registers as they are when its access is made (00 R11; log 6). -/
def frameAccess (p : FramePos) (s : State) : Except Fault (Option FramePos × State) :=
  match p with
  | .byte i =>
    if i < s.cur.frame.toNat then
      match hostRead1 (byteAddr s.cur.src i) s with
      | .ok (b, s') => .ok (some (.put i b), s')
      | .error f => .error f
    else
      match memWrite4 s.map.size.toNat s.cur.frame s with
      | .ok s' => .ok (some .tag, s')
      | .error f => .error f
  | .put i b =>
    match memWrite1 (byteAddr s.map.buf i) b s with
    | .ok s' => .ok (some (.byte (i + 1)), s')
    | .error f => .error f
  | .tag =>
    match memWrite4 s.map.tag.toNat s.cur.tag s with
    | .ok s' => .ok (some .count, s')
    | .error f => .error f
  | .count =>
    match memWrite4 s.map.count.toNat s.cur.count s with
    | .ok s' => .ok (some .send, s')
    | .error f => .error f
  | .send => .ok (none, send s.cfg.codeFrameSent s)

end Sys2Proof.Machine
end

