-- ==== Sys2Proof/Machine/Operands.lean ====
section
/-! DEFINITION. Where the commands' operands come from and the checks on them: the maps of 40_memory_map.md, the snapshot
OPS of 10_state.md R30, and the range checks of R90, R99, R102 and R116, taken on unbounded integers (00_scope.md R16). -/

namespace Sys2Proof.Machine

/-- 40 R84: the base of a direction's boot map. -/
def mapBase (c : Config) : Direction → Word
  | .download => 0#32
  | .upload => c.ulRegionOff

/-- 40 R84: the boot map of a direction. -/
def bootMap (c : Config) (d : Direction) : FrameMap :=
  { buf := mapBase c d + c.offBuf
    size := mapBase c d + c.offSize
    tag := mapBase c d + c.offTag
    count := mapBase c d + c.offCount }

/-- 40 R85: the secondary map. -/
def secondaryMap (c : Config) : FrameMap :=
  { buf := c.dlmapOffBuf, size := c.dlmapOffSize, tag := c.dlmapOffTag, count := c.dlmapOffCount }

/-- `a + n` passes the top of host memory, 2^HOST_ADDR_W (00 R16: a sum without wrap). -/
def passesHostTop (c : Config) (a n : Nat) : Bool := decide (a + n > 2 ^ c.hostAddrW)

/-- 41 R90: phase CHECK of LOAD_BIN and LOAD_NV; `none` when every check passes. -/
def loadCheck (s : State) : Option ResultCode :=
  if s.dlState ≠ .peerReady ∧ s.dlState ≠ .complete then some .invalid
  else if s.ops.total = 0#32 then some .invalid
  else if s.ops.cap = 0#32 ∨ s.ops.cap.toNat > s.cfg.bufCap then some .invalid
  else if passesHostTop s.cfg s.ops.src.toNat s.ops.total.toNat then some .invalid
  else if s.ops.total.toNat > s.cfg.xferBufMax then some .nomem
  else none

/-- 41 R99: phase CHECK of XMIT. -/
def xmitCheck (s : State) : Option ResultCode :=
  if s.ops.total = 0#32 ∨ s.ops.total.toNat > s.cfg.bufCap then some .invalid
  else if passesHostTop s.cfg s.ops.src.toNat s.ops.total.toNat then some .invalid
  else none

/-- 42 R102: the validation of an upload frame's size field. -/
def uploadSizeBad (s : State) (size : Word) : Bool :=
  decide (size.toNat > s.cfg.bufCap) || decide (size.toNat > s.ops.ulLen.toNat) ||
    passesHostTop s.cfg s.ops.ulDst.toNat size.toNat

/-- 45 R116: phase CHECK of CRASH_LOG. -/
def crashCheck (s : State) : Option ResultCode :=
  if passesHostTop s.cfg s.ops.crashDst.toNat s.cfg.crashLen then some .invalid else none

/-- The unsigned minimum (00 R10). -/
def minWord (a b : Word) : Word := if a.toNat ≤ b.toNat then a else b

/-- 41 R91: the tag a LOAD writes and the count its first frame carries. -/
inductive LoadKind where
  | bin
  | nv
deriving DecidableEq, Repr

/-- 41 R91: `tag_sel`. -/
def LoadKind.tag (c : Config) : LoadKind → Word
  | .bin => c.tagBin
  | .nv => c.tagNv

/-- 41 R92: the budget of the wait. -/
def LoadKind.budget (c : Config) : LoadKind → Word
  | .bin => c.nWaitBin
  | .nv => c.nWaitNv

/-- 41 R91: the first frame's sequence count. -/
def LoadKind.firstCount (ops : Operands) : LoadKind → Word
  | .bin => ops.count
  | .nv => 1#32

end Sys2Proof.Machine
end

