-- ==== Sys2Proof/Machine/Flags.lean ====
section
/-! DEFINITION. The words the host reads that are views of several fields: STATUS, RESULT, CTRL, MAP_INFO, the mailbox views,
LAST_UNRECOG, CAPS (10_state.md), and the host interrupt line (R28). Reserved bits read 0 (R21). -/

namespace Sys2Proof.Machine

/-- A one-bit field. -/
def bit (b : Bool) : BitVec 1 := BitVec.ofBool b

/-- 10 R37: the encoding of DL_STATE. -/
def DlState.bits : DlState → BitVec 3
  | .idle => 0#3
  | .awaitingPeerReady => 1#3
  | .peerReady => 2#3
  | .transferring => 3#3
  | .complete => 4#3
  | .timeoutFailed => 5#3

/-- 10 R38: the encoding of UL_STATE. -/
def UlState.bits : UlState → BitVec 3
  | .idle => 0#3
  | .handshake => 1#3
  | .frameLoop => 2#3
  | .done => 3#3
  | .timeoutFailed => 4#3

/-- 10 R39: the encoding of BOOT_STATE. -/
def BootState.bits : BootState → BitVec 3
  | .none => 0#3
  | .waitBooting => 1#3
  | .booted => 2#3
  | .initEndSent => 3#3
  | .timeoutFailed => 4#3

/-- 10 R25: the encoding of RESULT.CODE. -/
def ResultCode.bits : ResultCode → BitVec 8
  | .none => 0#8
  | .ok => 1#8
  | .timeout => 2#8
  | .mismatch => 3#8
  | .nomem => 4#8
  | .invalid => 5#8

/-- 10 R32: the bit of MAP_INFO.SEL. -/
def MapSel.bit : MapSel → BitVec 1
  | .boot => 0#1
  | .secondary => 1#1

/-- 10 R24: STATUS. -/
def statusWord (s : State) : Word :=
  s.curOp ++ 0#5 ++ s.bootState.bits ++ 0#1 ++ s.ulState.bits ++ 0#1 ++ s.dlState.bits ++ 0#3 ++
    bit s.bootComplete ++ bit s.copyComplete ++ bit s.copyStarted ++ bit s.contPending ++ bit s.busy

/-- 10 R25: RESULT. -/
def resultWord (s : State) : Word := 0#16 ++ s.lastOp ++ s.resultCode.bits

/-- 10 R26: CTRL. -/
def ctrlWord (s : State) : Word := 0#31 ++ bit s.notifyEn

/-- 10 R32: MAP_INFO. -/
def mapInfoWord (s : State) : Word := 0#30 ++ s.mapSel.bit ++ s.mapDir.bit

/-- 10 R44: MBX_IN_VIEW. -/
def mbxInWord (s : State) : Word := 0#15 ++ bit s.pend ++ s.mbxIn

/-- 10 R45: MBX_OUT_VIEW. -/
def mbxOutWord (s : State) : Word := 0#15 ++ bit s.peerIrq ++ s.mbxOut

/-- 10 R46: LAST_UNRECOG. -/
def lastUnrecogWord (s : State) : Word := 0#15 ++ bit s.lastUnrecog.valid ++ s.lastUnrecog.code

/-- 10 R49: CAPS. -/
def capsWord (c : Config) : Word :=
  0#27 ++ bit c.nvCountIncrements ++ bit c.fCrashLog ++ bit c.fIoctl ++ bit c.fXmit ++ bit c.fDlMap

/-- 10 R28: HOST_IRQ, a level. -/
def hostIrq (s : State) : Bool := decide (s.irqStatus &&& s.irqEnable ≠ 0#4)

end Sys2Proof.Machine
end

