-- ==== Sys2Proof/Machine/MapCommands.lean ====
section
/-! DEFINITION. The memory-map and header commands (40_memory_map.md R84 to R86). Each runs in one Command-unit step after
decoding. -/

namespace Sys2Proof.Machine

/-- Make a map the current one (10 R31, R32). -/
def selectMap (m : FrameMap) (d : Direction) (sel : MapSel) (s : State) : State :=
  { s with map := m, mapDir := d, mapSel := sel }

/-- R84: MAP_BOOT. -/
def execMapBoot (dir : Direction) (s : State) : Result :=
  .next (finish .ok (selectMap (bootMap s.cfg dir) dir .boot s))

/-- R85: MAP_DL. -/
def execMapDl (s : State) : Result :=
  .next (finish .ok (selectMap (secondaryMap s.cfg) .download .secondary s))

/-- R86: SET_MAGIC, an access sequence of one access. -/
def execSetMagic (s : State) : Result :=
  commandAccess s fun s =>
    onOk (memWrite4 s.cfg.hdrMagicOff.toNat s.cfg.dlMagic s) fun s => .next (finish .ok s)

end Sys2Proof.Machine
end

