-- ==== Sys2Proof/Machine/Download.lean ====
section
/-! DEFINITION. The download commands and the Continuation unit (41_download.md). A meaning is one Command-unit step
(60_exceptions.md R127) of its command, in the phase the state holds; in a phase that is none of the command's later ones
it is the command's first phase (log 11). -/

namespace Sys2Proof.Machine

/-- R89, phase START. -/
def prepareStart (s : State) : State :=
  { s with
    dlState := .awaitingPeerReady
    prog := { total := 0#32, remain := 0#32, sent := 0#32 }
    cur := { src := 0#32, frame := 0#32, tag := 0#32, count := 0#32 }
    contPending := false }

/-- R89: PREPARE. -/
def execPrepare (s : State) : Result :=
  match s.phase with
  | .wait =>
    pollTick s.copyStarted
      (fun s => .next (finish .ok { consumeLatch .copyStarted s with dlState := .peerReady }))
      (fun s => fail .timeout { s with dlState := .timeoutFailed }) s
  | _ => .next (startPoll s.cfg.nPrepare .wait (prepareStart s))

/-- R91, phase SETUP. -/
def loadSetup (k : LoadKind) (s : State) : State :=
  { s with
    prog := { total := s.ops.total, remain := s.ops.total, sent := 0#32 }
    cur :=
      { src := s.ops.src
        frame := minWord s.ops.cap s.ops.total
        tag := k.tag s.cfg
        count := k.firstCount s.ops }
    contPending := false
    dlState := .transferring }

/-- R90, R91: CHECK and, when it passes, SETUP in the same step. -/
def loadStart (k : LoadKind) (s : State) : Result :=
  match loadCheck s with
  | some code => fail code s
  | none => .next { loadSetup k s with phase := .frame (.byte 0) }

/-- R91, phase FIRST_FRAME: one access of it. WAIT starts as its Send is made. -/
def loadFrame (k : LoadKind) (p : FramePos) (s : State) : Result :=
  commandAccess s fun s =>
    onOk (frameAccess p s) fun r =>
      match r.1 with
      | some q => .next { r.2 with phase := .frame q }
      | none => .next (startPoll (k.budget r.2.cfg) .wait (releaseCommand r.2))

/-- R92: the size check, which sets COPY_COMPLETE. -/
def sizeCheck (s : State) : State :=
  if s.prog.sent.toNat ≥ s.prog.total.toNat then setLatch .copyComplete s else s

/-- R92: one tick of LOAD's wait. -/
def loadWait (s : State) : Result :=
  pollTick (sizeCheck s).copyComplete
    (fun s => .next (finish .ok (consumeLatch .copyComplete s)))
    (fun s => fail .timeout
      { s with dlState := .timeoutFailed, cur := { s.cur with tag := 0#32 }, contPending := false })
    (sizeCheck s)

/-- One Command-unit step of a LOAD (R90 to R92). -/
def loadStep (k : LoadKind) (s : State) : Result :=
  match s.phase with
  | .frame p => loadFrame k p s
  | .wait => loadWait s
  | _ => loadStart k s

/-- R93: LOAD_BIN. -/
def execLoadBin (s : State) : Result := loadStep .bin s

/-- R94: LOAD_NV. -/
def execLoadNv (s : State) : Result := loadStep .nv s

/-- R99, phase XFER: one access of it. -/
def xmitAccess (p : XmitPos) (s : State) : Result :=
  commandAccess s fun s =>
    match p with
    | .byte i =>
      if i < s.ops.total.toNat then
        onOk (hostRead1 (byteAddr s.ops.src i) s) fun r => .next { r.2 with phase := .xmit (.put i r.1) }
      else
        onOk (memWrite4 s.map.size.toNat s.ops.total s) fun s => .next { s with phase := .xmit .send }
    | .put i b =>
      onOk (memWrite1 (byteAddr s.map.buf i) b s) fun s => .next { s with phase := .xmit (.byte (i + 1)) }
    | .send => .next (finish .ok (send s.cfg.codeXmitSent s))

/-- R99: XMIT. -/
def execXmit (s : State) : Result :=
  match s.phase with
  | .xmit p => xmitAccess p s
  | _ =>
    match xmitCheck s with
    | some code => fail code s
    | none => .next { s with phase := .xmit (.byte 0) }

/-! ### The Continuation unit -/

/-- R96: the registers the per-frame step advances. -/
def advanceFrame (s : State) : State :=
  { s with
    cur :=
      { src := s.cur.src + s.cur.frame
        frame := minWord s.cur.frame (s.prog.remain - s.cur.frame)
        tag := s.cur.tag
        count :=
          if s.cur.tag ≠ s.cfg.tagNv ∨ s.cfg.nvCountIncrements = true then s.cur.count + 1#32 else s.cur.count }
    prog :=
      { total := s.prog.total
        remain := s.prog.remain - s.cur.frame
        sent := s.prog.sent + s.cur.frame } }

/-- R96: the per-frame step up to its first access. -/
def perFrame (s : State) : State :=
  if s.dlState ≠ .transferring then s
  else if (advanceFrame s).prog.sent.toNat ≥ (advanceFrame s).prog.total.toNat then
    { advanceFrame s with dlState := .complete, cur := { (advanceFrame s).cur with tag := 0#32 } }
  else { advanceFrame s with cont := .frame (.byte 0), lock := .continuation }

/-- R95, R128: whether the Continuation unit may step. -/
def continuationEnabled (s : State) : Bool :=
  match s.cont with
  | .idle => s.contPending && decide (s.lock = .free)
  | .frame _ => decide (s.lock ≠ .command)

/-- One access of the continuation's FrameTransfer; the lock is released after its Send (10 R51). -/
def continuationAccess (p : FramePos) (s : State) : Result :=
  onOk (frameAccess p { s with lock := .continuation }) fun r =>
    match r.1 with
    | some q => .next { r.2 with cont := .frame q }
    | none => .next { r.2 with cont := .idle, lock := .free }

/-- R95, R96: one transition of the Continuation unit; none when it is not enabled. -/
def continuationStep (s : State) : Result :=
  if continuationEnabled s then
    match s.cont with
    | .idle => .next (perFrame { s with contPending := false })
    | .frame p => continuationAccess p s
  else .next s

end Sys2Proof.Machine
end

