-- ==== Sys2Proof/Machine/Upload.lean ====
section
/-! DEFINITION. The upload commands (42_upload.md R100 to R102). -/

namespace Sys2Proof.Machine

/-- R101, R102: a poll tick that takes a pending code and compares it. A wrong code is consumed and fails MISMATCH. -/
def ulPoll (want : Code) (hit : Phase) (out : State → Result) (s : State) : Result :=
  pollTick s.pend
    (fun s =>
      if (takeIn s).1 = want then .next { (takeIn s).2 with phase := hit }
      else ulFail .mismatch (takeIn s).2)
    out s

/-- R101: UL_STEP1. -/
def execUlStep1 (s : State) : Result :=
  match s.phase with
  | .poll => ulPoll s.cfg.codeUlReady .success (fun s => .next { s with phase := .lastChance }) s
  | .lastChance =>
    if (peekIn s).1 = s.cfg.codeUlReady then .next { (peekIn s).2 with pend := false, phase := .success }
    else ulFail .timeout (peekIn s).2
  | .success =>
    commandAccess s fun s => .next (finish .ok { send s.cfg.codeUlBegin s with ulState := .frameLoop })
  | _ => .next (startPoll s.cfg.nUlHs .poll { s with notifyEn := false, ulState := .handshake })

/-- R102: what follows the third field read: the UL_LAST registers, then the validation. -/
def uploadFields (size tag count : Word) (s : State) : Result :=
  if uploadSizeBad s size then
    ulFail .invalid { s with ulLast := { size := size, tag := tag, count := count } }
  else
    .next { s with ulLast := { size := size, tag := tag, count := count }, phase := .upload (.byte size tag 0) }

/-- R102: the end of an upload frame: the acknowledgment and, at the terminating tag, the end of the loop. -/
def uploadAck (tag : Word) (s : State) : State :=
  if tag = s.cfg.tagUlEnd then
    finish .ok { send s.cfg.codeUlFrameAck s with notifyEn := true, ulState := .done }
  else finish .ok (send s.cfg.codeUlFrameAck s)

/-- R102, phase READ: one access of it. -/
def uploadAccess (p : UploadPos) (s : State) : Result :=
  commandAccess s fun s =>
    match p with
    | .size =>
      onOk (memRead4 s.map.size.toNat s) fun r => .next { r.2 with phase := .upload (.tag r.1) }
    | .tag size =>
      onOk (memRead4 s.map.tag.toNat s) fun r => .next { r.2 with phase := .upload (.count size r.1) }
    | .count size tag =>
      onOk (memRead4 s.map.count.toNat s) fun r => uploadFields size tag r.1 r.2
    | .byte size tag i =>
      if i < size.toNat then
        onOk (memRead1 (byteAddr s.map.buf i) s) fun r => .next { r.2 with phase := .upload (.put size tag i r.1) }
      else .next (uploadAck tag s)
    | .put size tag i b =>
      onOk (hostWrite1 (byteAddr s.ops.ulDst i) b s) fun s =>
        .next { s with phase := .upload (.byte size tag (i + 1)) }

/-- R102: UL_STEP2. -/
def execUlStep2 (s : State) : Result :=
  match s.phase with
  | .poll => ulPoll s.cfg.codeUlFrameReady (.upload .size) (fun s => ulFail .timeout s) s
  | .upload p => uploadAccess p s
  | _ =>
    if s.ulState ≠ .frameLoop then fail .invalid s
    else .next (startPoll s.cfg.nUlFrame .poll { s with notifyEn := false })

end Sys2Proof.Machine
end

