-- ==== Sys2Proof/Machine/Boot.lean ====
section
/-! DEFINITION. The boot handshake commands (44_boot_handshake.md R114, R115). -/

namespace Sys2Proof.Machine

/-- R114: BOOT_START. -/
def execBootStart (s : State) : Result :=
  match s.phase with
  | .wait =>
    pollTick s.bootComplete
      (fun s => .next (finish .ok { consumeLatch .bootComplete s with bootState := .booted }))
      (fun s => fail .timeout { s with bootState := .timeoutFailed }) s
  | _ =>
    commandAccess s fun s =>
      .next (startPoll s.cfg.nBoot .wait
        (releaseCommand (send s.cfg.codeStartExec { s with bootState := .waitBooting })))

/-- R115: CP_START. -/
def execCpStart (s : State) : Result :=
  commandAccess s fun s =>
    .next (finish .ok { send (s.cfg.codeInitEnd ||| s.cfg.initCaps) s with bootState := .initEndSent })

end Sys2Proof.Machine
end

