-- ==== Sys2Proof/Machine/Diagnostic.lean ====
section
/-! DEFINITION. The crash diagnostic copy (45_diagnostic.md R116). -/

namespace Sys2Proof.Machine

/-- R116, phase COPY: one access of it. A crash buffer of no bytes is a copy with no access, so it ends at once, also while
the Continuation unit holds the port (DESIGN CHOICE, log 19). -/
def crashCopy (p : CrashPos) (s : State) : Result :=
  match p with
  | .byte i =>
    if i < s.cfg.crashLen then
      commandAccess s fun s =>
        onOk (memRead1 (byteAddr s.cfg.crashRxOff i) s) fun r => .next { r.2 with phase := .crash (.put i r.1) }
    else .next (finish .ok s)
  | .put i b =>
    commandAccess s fun s =>
      onOk (hostWrite1 (byteAddr s.ops.crashDst i) b s) fun s =>
        if i + 1 < s.cfg.crashLen then .next { s with phase := .crash (.byte (i + 1)) }
        else .next (finish .ok s)

/-- R116: CRASH_LOG. -/
def execCrashLog (s : State) : Result :=
  match s.phase with
  | .crash p => crashCopy p s
  | _ =>
    match crashCheck s with
    | some code => fail code s
    | none => .next { s with phase := .crash (.byte 0) }

end Sys2Proof.Machine
end

