-- ==== Sys2Proof/Machine/Notify.lean ====
section
/-! DEFINITION. The Notification unit and the peer's ports (43_notification.md R104 to R112). -/

namespace Sys2Proof.Machine

/-- R112: an unrecognized code is recorded and dropped. -/
def unrecognized (v : Code) (s : State) : State :=
  record (.dropped v) (raiseIrq irqUnrecog { s with lastUnrecog := { valid := true, code := v } })

/-- R111: dispatch. -/
def dispatchCode (v : Code) (s : State) : State :=
  if v = s.cfg.codeDlReady then setLatch .copyStarted s
  else if v = s.cfg.codeFrameAck then { s with contPending := true }
  else if v = s.cfg.codeBooting then setLatch .bootComplete s
  else unrecognized v s

/-- R110: whether the Notification unit may step. -/
def notificationEnabled (s : State) : Bool := s.notifyEn && s.pend

/-- R110: the Notification unit's step; none when it is not enabled. -/
def notificationStep (s : State) : State :=
  if notificationEnabled s then dispatchCode (takeIn s).1 (raiseIrq irqNotifyRx (takeIn s).2) else s

/-- R104: the peer signals a code. -/
def peerNotify (c : Code) (s : State) : State :=
  let s := if s.pend then record (.overwritten s.mbxIn) s else s
  record (.notify c) { s with mbxIn := c, pend := true }

/-- R105: the peer reads the outbound mailbox; the code it gets is in the event. -/
def peerReadOut (s : State) : State :=
  record (.peerRead s.mbxOut) { s with peerIrq := false }

/-- R106: the peer reads window bytes; the value it gets is in the event (log 13). -/
def peerLoad (off width : Nat) (s : State) : Result :=
  if off + width ≤ s.cfg.shmSize then
    .next (record (.memRd .peer off width (leValue (Memory.readBytes s.window off width))) s)
  else .fault (.peerRange off width)

/-- R106: the peer writes window bytes. -/
def peerStore (off : Nat) (bytes : List Byte) (s : State) : Result :=
  if off + bytes.length ≤ s.cfg.shmSize then
    .next (record (.memWr .peer off bytes.length (leValue bytes))
      { s with window := Memory.writeBytes s.window off bytes })
  else .fault (.peerRange off bytes.length)

end Sys2Proof.Machine
end

