-- ==== Sys2Proof/Machine/HostPort.lean ====
section
/-! DEFINITION. The host's register window (10_state.md R21 to R29) and the host's own memory. -/

namespace Sys2Proof.Machine

/-- R22: what each register reads as. -/
def readReg (s : State) : Reg → Word
  | .cmd => 0#32
  | .status => statusWord s
  | .result => resultWord s
  | .ctrl => ctrlWord s
  | .irqStatus => s.irqStatus.zeroExtend 32
  | .irqEnable => s.irqEnable.zeroExtend 32
  | .xferSrc => s.opnd.src
  | .xferTotal => s.opnd.total
  | .xferFrameCap => s.opnd.cap
  | .xferCount => s.opnd.count
  | .ulDst => s.opnd.ulDst
  | .ulDstLen => s.opnd.ulLen
  | .crashDst => s.opnd.crashDst
  | .mapBuf => s.map.buf
  | .mapSize => s.map.size
  | .mapTag => s.map.tag
  | .mapCount => s.map.count
  | .mapInfo => mapInfoWord s
  | .progTotal => s.prog.total
  | .progRemain => s.prog.remain
  | .progSent => s.prog.sent
  | .curSrc => s.cur.src
  | .curFrame => s.cur.frame
  | .curTag => s.cur.tag
  | .curCount => s.cur.count
  | .ulLastSize => s.ulLast.size
  | .ulLastTag => s.ulLast.tag
  | .ulLastCount => s.ulLast.count
  | .mbxInView => mbxInWord s
  | .mbxOutView => mbxOutWord s
  | .lastUnrecog => lastUnrecogWord s
  | .pollLeft => s.pollLeft
  | .caps => capsWord s.cfg

/-- R23, R26: a CMD or CTRL write while BUSY is dropped and sets OVERRUN. -/
def unlessBusy (s : State) (write : State) : State :=
  if s.busy then raiseIrq irqOverrun s else write

/-- R22: what a write of each register does; a write to a read-only register does nothing (R21). -/
def writeReg (v : Word) (s : State) : Reg → State
  | .cmd => unlessBusy s (accept v s)
  | .ctrl => unlessBusy s { s with notifyEn := decide (v.extractLsb' 0 1 = 1#1) }
  | .irqStatus => { s with irqStatus := s.irqStatus &&& ~~~(v.extractLsb' 0 4) }
  | .irqEnable => { s with irqEnable := v.extractLsb' 0 4 }
  | .xferSrc => { s with opnd := { s.opnd with src := v } }
  | .xferTotal => { s with opnd := { s.opnd with total := v } }
  | .xferFrameCap => { s with opnd := { s.opnd with cap := v } }
  | .xferCount => { s with opnd := { s.opnd with count := v } }
  | .ulDst => { s with opnd := { s.opnd with ulDst := v } }
  | .ulDstLen => { s with opnd := { s.opnd with ulLen := v } }
  | .crashDst => { s with opnd := { s.opnd with crashDst := v } }
  | .status => s
  | .result => s
  | .mapBuf => s
  | .mapSize => s
  | .mapTag => s
  | .mapCount => s
  | .mapInfo => s
  | .progTotal => s
  | .progRemain => s
  | .progSent => s
  | .curSrc => s
  | .curFrame => s
  | .curTag => s
  | .curCount => s
  | .ulLastSize => s
  | .ulLastTag => s
  | .ulLastCount => s
  | .mbxInView => s
  | .mbxOutView => s
  | .lastUnrecog => s
  | .pollLeft => s
  | .caps => s

/-- R21: the value of a host read; a narrow or unaligned access and an offset with no register read 0. -/
def hostReadValue (off width : Nat) (s : State) : Word :=
  if width = 4 then
    match regAt off with
    | some r => readReg s r
    | none => 0#32
  else 0#32

/-- R21: a host read. It changes no register; the value goes to the host (log 14). -/
def hostRead (off width : Nat) (s : State) : State :=
  { s with hostRdata := hostReadValue off width s }

/-- R21: a host write; a narrow or unaligned access and an offset with no register have no effect. -/
def hostWrite (off width : Nat) (v : Word) (s : State) : State :=
  if width = 4 then
    match regAt off with
    | some r => writeReg v s r
    | none => s
  else s

/-- The address and value of each byte of a store, for the history. -/
def storeEvents (addr : Nat) : List Byte → List Event
  | [] => []
  | b :: bs => .hostWr .host addr b.toNat :: storeEvents (addr + 1) bs

/-- 00 R7: the host writes its own memory (log 5). -/
def hostStore (addr : Nat) (bytes : List Byte) (s : State) : Result :=
  if addr + bytes.length ≤ 2 ^ s.cfg.hostAddrW then
    .next { s with
      hostMem := Memory.writeBytes s.hostMem addr bytes
      history := (storeEvents addr bytes).reverse ++ s.history }
  else .fault (.ownerRange addr bytes.length)

end Sys2Proof.Machine
end

