-- ==== Sys2Proof/Machine/Dispatch.lean ====
section
/-! DEFINITION. One Command-unit step of a command: one arm per constructor of Instr. -/

namespace Sys2Proof.Machine

def exec (i : Instr) (s : State) : Host.Outcome State Fault Refusal :=
  match i with
  | .mapBoot dir => Sys2Proof.Machine.execMapBoot dir s
  | .mapDl => Sys2Proof.Machine.execMapDl s
  | .setMagic => Sys2Proof.Machine.execSetMagic s
  | .prepare => Sys2Proof.Machine.execPrepare s
  | .loadBin => Sys2Proof.Machine.execLoadBin s
  | .loadNv => Sys2Proof.Machine.execLoadNv s
  | .xmit => Sys2Proof.Machine.execXmit s
  | .ulStep1 => Sys2Proof.Machine.execUlStep1 s
  | .ulStep2 => Sys2Proof.Machine.execUlStep2 s
  | .bootStart => Sys2Proof.Machine.execBootStart s
  | .cpStart => Sys2Proof.Machine.execCpStart s
  | .crashLog => Sys2Proof.Machine.execCrashLog s

end Sys2Proof.Machine
end

