-- ==== Sys2Proof/Machine/Engine.lean ====
section
/-! DEFINITION. The Command unit and the choice of the next agent step (60_exceptions.md R127, R128; 70 R137). -/

namespace Sys2Proof.Machine

/-- R127, 30 R76: one step of the Command unit; none while BUSY = 0. The step after acceptance decodes; an invalid word ends
there with INVALID, a valid one goes to its command's first phase. -/
def commandStep (s : State) : Result :=
  if s.busy then
    match validCommand s.cfg.toParams s.cmdw with
    | none => .next (finish .invalid s)
    | some i => if s.phase = .decode then .next { s with phase := .start } else exec i s
  else .next s

/-- 70 R137, R138: the reset input. The window, the host memory and the configuration are as they were. -/
def resetStep (s : State) : State := State.powerOn s.cfg s.window s.hostMem s.agenda

/-- R128: the step of the agent whose turn it is. A unit that is not enabled takes no step (log 2). -/
def turnStep (t : Turn) (s : State) : Result :=
  match t with
  | .hostRead off width => .next (hostRead off width s)
  | .hostWrite off width v => .next (hostWrite off width v s)
  | .hostStore addr bytes => hostStore addr bytes s
  | .peerNotify c => .next (peerNotify c s)
  | .peerReadOut => .next (peerReadOut s)
  | .peerLoad off width => peerLoad off width s
  | .peerStore off bytes => peerStore off bytes s
  | .command => commandStep s
  | .continuation => continuationStep s
  | .notification => .next (notificationStep s)
  | .reset => .next (resetStep s)

/-- The engine's step when nothing is scheduled: the order of 95_test_vectors.md's prompt schedule, under which every unit
that stays enabled is taken (DESIGN CHOICE, log 3). -/
def promptStep (s : State) : Result :=
  if notificationEnabled s then .next (notificationStep s)
  else if continuationEnabled s then continuationStep s
  else commandStep s

/-- One step of the machine: the scheduled turn if there is one. -/
def machineStep (s : State) : Result :=
  match s.agenda with
  | [] => promptStep s
  | t :: rest => turnStep t { s with agenda := rest }

/-- The Command unit has just accepted and decoded a word: what a host write of the word to CMD (10 R23) and the decode step
(30 R76) leave. -/
def acceptedAndDecoded (w : Word) (s : State) : State :=
  { accept w s with phase := .start, lock := s.lock.dropCommand }

/-- The same with the Command unit stepping next: by a turn of its own, unless nothing is scheduled and no other unit is
enabled, when it steps next anyway. -/
def placeCommand (w : Word) (s : State) : State :=
  let p := acceptedAndDecoded w s
  if p.agenda.isEmpty && !notificationEnabled p && !continuationEnabled p then p
  else { p with agenda := .command :: p.agenda }

end Sys2Proof.Machine
end

