-- ==== Sys2Proof/Machine/Step.lean ====
section
/-! DEFINITION. The machine's step, and where it finds its next command. -/

namespace Sys2Proof.Machine

/-- One agent step (60_exceptions.md R128). -/
def step : State → Host.Outcome State Fault Refusal := machineStep

/-- A command word of `nbits` bits placed so that the next step runs it (log 10). -/
def State.withFetchWord (s : State) (nbits w : Nat) : State :=
  placeCommand (BitVec.ofNat 32 (w % 2 ^ nbits)) s

end Sys2Proof.Machine
end

