-- ==== Sys2Proof/Safety.lean ====
section
/-! DEFINITION. What counts as a safe run: the invariant of the SFTE's state, which the reset state has and every step
keeps, and the faults only an outside agent can cause. Each part names the rules it says in one formula. -/

namespace Sys2Proof.Machine

/-- The map MAP_INFO says is current (10 R31, R32). -/
def namedMap (c : Config) (d : Direction) : MapSel → FrameMap
  | .boot => bootMap c d
  | .secondary => secondaryMap c

/-- Whether a phase is one of a command's phases (10 R50). A word that is no command has none past its decoding. -/
def phaseFits (i : Option Instr) (ph : Phase) : Bool :=
  match ph, i with
  | .idle, _ => true
  | .decode, _ => true
  | .start, some _ => true
  | .frame _, some .loadBin => true
  | .frame _, some .loadNv => true
  | .wait, some .prepare => true
  | .wait, some .loadBin => true
  | .wait, some .loadNv => true
  | .wait, some .bootStart => true
  | .xmit _, some .xmit => true
  | .poll, some .ulStep1 => true
  | .poll, some .ulStep2 => true
  | .lastChance, some .ulStep1 => true
  | .success, some .ulStep1 => true
  | .upload _, some .ulStep2 => true
  | .crash _, some .crashLog => true
  | _, _ => false

/-- Whether a phase is inside an access sequence that has made an access (10 R51). -/
def midSequence : Phase → Bool
  | .idle => false
  | .decode => false
  | .start => false
  | .frame (.byte 0) => false
  | .frame _ => true
  | .wait => false
  | .xmit (.byte 0) => false
  | .xmit _ => true
  | .poll => false
  | .lastChance => false
  | .success => false
  | .upload .size => false
  | .upload _ => true
  | .crash (.byte 0) => false
  | .crash _ => true

/-- A held payload byte of a frame goes inside the buffer (41 R88: "Every byte lands inside the buffer"). -/
def framePosOk (cap : Nat) : FramePos → Bool
  | .byte _ => true
  | .put i _ => decide (i < cap)
  | .tag => true
  | .count => true
  | .send => true

/-- What the checks of a command established still holds in its later phases (41 R99, 42 R102, 45 R116). -/
def positionOk (s : State) : Bool :=
  match s.phase with
  | .frame p => framePosOk s.cfg.bufCap p
  | .xmit p =>
    decide (s.ops.total.toNat ≤ s.cfg.bufCap) && !passesHostTop s.cfg s.ops.src.toNat s.ops.total.toNat &&
      (match p with
       | .put i _ => decide (i < s.ops.total.toNat)
       | .byte _ => true
       | .send => true)
  | .upload (.byte size _ _) => !uploadSizeBad s size
  | .upload (.put size _ i _) => !uploadSizeBad s size && decide (i < size.toNat)
  | .crash p =>
    !passesHostTop s.cfg s.ops.crashDst.toNat s.cfg.crashLen &&
      (match p with
       | .put i _ => decide (i < s.cfg.crashLen)
       | .byte _ => true)
  | _ => true

/-- The same for the Continuation unit's frame. -/
def contPosOk (s : State) : Bool :=
  match s.cont with
  | .idle => true
  | .frame p => framePosOk s.cfg.bufCap p

/-- Both memories are in canonical form and have no byte outside their address space (20 R53). -/
abbrev MemoriesOk (s : State) : Prop :=
  Memory.wf s.window = true ∧ Memory.wf s.hostMem = true ∧
    Memory.within s.cfg.shmSize s.window = true ∧ Memory.within (2 ^ s.cfg.hostAddrW) s.hostMem = true

/-- 10 R35: remaining + sent = total. -/
abbrev ProgressOk (s : State) : Prop :=
  s.prog.remain.toNat + s.prog.sent.toNat = s.prog.total.toNat

/-- 41 R96: the current frame fits the remaining bytes, the buffer and host memory, and is not empty while transferring. -/
abbrev FrameOk (s : State) : Prop :=
  s.cur.frame.toNat ≤ s.prog.remain.toNat ∧ s.cur.frame.toNat ≤ s.cfg.bufCap ∧
    s.cur.src.toNat + s.prog.remain.toNat ≤ 2 ^ s.cfg.hostAddrW ∧
    (s.dlState = .transferring → 0 < s.cur.frame.toNat)

/-- 10 R34: CUR_TAG = 0 exactly when no transfer is in flight. -/
abbrev TagOk (s : State) : Prop := s.cur.tag = 0#32 ↔ s.dlState ≠ .transferring

/-- 10 R31, R32: the map registers hold the map MAP_INFO names, and the secondary map is a download map. -/
abbrev MapOk (s : State) : Prop :=
  s.map = namedMap s.cfg s.mapDir s.mapSel ∧ (s.mapSel = .secondary → s.mapDir = .download)

/-- 10 R50, R24: the Command unit is IDLE exactly when BUSY = 0; CUR_OP is the running command's OPCODE and 0 when idle. -/
abbrev BusyOk (s : State) : Prop :=
  (s.busy = true ↔ s.phase ≠ .idle) ∧ s.curOp = (if s.busy then opcodeField s.cmdw else 0#8)

/-- 10 R51: the port lock is held exactly inside the access sequences of its holder. -/
abbrev LockOk (s : State) : Prop :=
  (s.lock = .command ↔ midSequence s.phase = true) ∧ (s.lock = .continuation ↔ s.cont ≠ .idle)

/-- 10 R50: the phase is one of the accepted command's phases. -/
abbrev PhaseOk (s : State) : Prop :=
  phaseFits (validCommand s.cfg.toParams s.cmdw) s.phase = true

/-- 41 R92: COPY_COMPLETE is never 1 between steps. -/
abbrev LatchOk (s : State) : Prop := s.copyComplete = false

/-- 00 R12: a running poll has iterations left. -/
abbrev PollOk (s : State) : Prop := s.phase = .wait ∨ s.phase = .poll → s.pollLeft ≠ 0#32

/-- 10 R26: the notification line stays disabled while an upload command polls or copies. -/
def uploadPhase : Phase → Bool
  | .poll => true
  | .lastChance => true
  | .success => true
  | .upload _ => true
  | _ => false

abbrev UploadLineOk (s : State) : Prop := uploadPhase s.phase = true → s.notifyEn = false

/-- The phases of a LOAD after its SETUP (41 R91). -/
def loadPhase : Phase → Bool
  | .frame _ => true
  | .wait => true
  | _ => false

/-- The command the unit has accepted (30 R76). -/
def currentCommand (s : State) : Option Instr := validCommand s.cfg.toParams s.cmdw

/-- 10 R37 to R39: each waiting state of a sequencer is one its command is in: TRANSFERRING inside a LOAD, the others
exactly while PREPARE, UL_STEP1 and BOOT_START wait. -/
abbrev SequencersOk (s : State) : Prop :=
  (s.dlState = .transferring →
    loadPhase s.phase = true ∧ (currentCommand s = some .loadBin ∨ currentCommand s = some .loadNv)) ∧
  (s.dlState = .awaitingPeerReady → s.phase = .wait ∧ currentCommand s = some .prepare) ∧
  (s.ulState = .handshake →
    (s.phase = .poll ∨ s.phase = .lastChance ∨ s.phase = .success) ∧ currentCommand s = some .ulStep1) ∧
  (s.bootState = .waitBooting → s.phase = .wait ∧ currentCommand s = some .bootStart)

/-- The invariant. -/
abbrev Invariant (s : State) : Prop :=
  MemoriesOk s ∧ ProgressOk s ∧ FrameOk s ∧ TagOk s ∧ MapOk s ∧ BusyOk s ∧ LockOk s ∧ PhaseOk s ∧ LatchOk s ∧
    PollOk s ∧ UploadLineOk s ∧ SequencersOk s ∧ positionOk s = true ∧ contPosOk s = true

/-- A fault that only a turn of an outside agent causes: it named memory that does not exist. -/
def Fault.outside : Fault → Bool
  | .windowRange _ _ => false
  | .windowAlign _ => false
  | .hostRange _ => false
  | .peerRange _ _ => true
  | .ownerRange _ _ => true

/-- A safe step: it answers a next state, or an outside agent named memory that does not exist. -/
def SafeStep (s : State) : Prop :=
  (∃ t, step s = .next t) ∨ (∃ f, step s = .fault f ∧ f.outside = true)

/-- 60 R128: whose turn a step takes: the head of the schedule or, with nothing scheduled, the engine unit of the prompt
order (log 3). -/
def nextTurn (s : State) : Turn :=
  match s.agenda with
  | t :: _ => t
  | [] =>
    if notificationEnabled s then .notification
    else if continuationEnabled s then .continuation
    else .command

/-- A turn of the host: a register access or a store to its own memory. -/
def Turn.ofHost : Turn → Bool
  | .hostRead _ _ => true
  | .hostWrite _ _ _ => true
  | .hostStore _ _ => true
  | .peerNotify _ => false
  | .peerReadOut => false
  | .peerLoad _ _ => false
  | .peerStore _ _ => false
  | .command => false
  | .continuation => false
  | .notification => false
  | .reset => false

/-- `n` steps, stopping at the first fault or refusal. -/
def runSteps : Nat → State → Result
  | 0, s => .next s
  | n + 1, s =>
    match step s with
    | .next t => runSteps n t
    | .fault f => .fault f
    | .refused r => .refused r

/-- 70 R138: what every register of the window reads right after reset. -/
def resetValue (c : Config) : Reg → Word
  | .ctrl => 0x00000001#32
  | .mapBuf => c.offBuf
  | .mapSize => c.offSize
  | .mapTag => c.offTag
  | .mapCount => c.offCount
  | .caps => capsWord c
  | .cmd | .status | .result | .irqStatus | .irqEnable => 0#32
  | .xferSrc | .xferTotal | .xferFrameCap | .xferCount | .ulDst | .ulDstLen | .crashDst => 0#32
  | .mapInfo | .progTotal | .progRemain | .progSent => 0#32
  | .curSrc | .curFrame | .curTag | .curCount => 0#32
  | .ulLastSize | .ulLastTag | .ulLastCount => 0#32
  | .mbxInView | .mbxOutView | .lastUnrecog | .pollLeft => 0#32

/-- 60 R120: the table of results. -/
def resultAllowed : Instr → ResultCode → Bool
  | .mapBoot _, .ok => true
  | .mapDl, .ok => true
  | .setMagic, .ok => true
  | .prepare, .ok => true
  | .prepare, .timeout => true
  | .loadBin, .ok => true
  | .loadBin, .invalid => true
  | .loadBin, .nomem => true
  | .loadBin, .timeout => true
  | .loadNv, .ok => true
  | .loadNv, .invalid => true
  | .loadNv, .nomem => true
  | .loadNv, .timeout => true
  | .xmit, .ok => true
  | .xmit, .invalid => true
  | .ulStep1, .ok => true
  | .ulStep1, .timeout => true
  | .ulStep1, .mismatch => true
  | .ulStep2, .ok => true
  | .ulStep2, .invalid => true
  | .ulStep2, .timeout => true
  | .ulStep2, .mismatch => true
  | .bootStart, .ok => true
  | .bootStart, .timeout => true
  | .cpStart, .ok => true
  | .crashLog, .ok => true
  | .crashLog, .invalid => true
  | _, _ => false

/-- 00 R13, 60 R127: an access of the engine: to the window, to host memory or to a mailbox. -/
def engineAccess : Event → Bool
  | .memRd .engine _ _ _ => true
  | .memWr .engine _ _ _ => true
  | .hostRd .engine _ _ => true
  | .hostWr .engine _ _ => true
  | .send _ => true
  | .takeIn _ => true
  | .peekIn _ => true
  | _ => false

/-- The event of a command's acceptance. -/
def isCmdStart : Event → Bool
  | .cmdStart _ => true
  | _ => false

/-- The event of a command's completion. -/
def isCmdDone : Event → Bool
  | .cmdDone _ _ => true
  | _ => false

/-- 60 R119: the history holds one completion for each acceptance but the one of the running command. -/
def HistoryBalanced (s : State) : Prop :=
  s.history.countP isCmdStart = s.history.countP isCmdDone + (if s.busy then 1 else 0)

/-- Address `a` is none of the `n` bytes from `base` on. -/
abbrev Outside (a base n : Nat) : Prop := a < base ∨ base + n ≤ a

/-- The outcome with a change made to the next state. -/
def onNext (f : State → State) : Result → Result
  | .next t => .next (f t)
  | .fault r => .fault r
  | .refused r => .refused r

end Sys2Proof.Machine
end

