-- ==== Sys2Proof/Certificates/Slice0/Obligations.lean ====
section
/-! DEFINITION. The statements for the provers. Each docstring names the rule of spec/ it rests on. A next state written as
`{ s with … }` is its own frame: every field it does not name is as before. -/

open Sys2Proof Sys2Proof.Machine

/-! ### Encoding -/

/-- R72, R74: a word decodes to a command exactly when it is that command's encoding, so no two words and no two commands
share a meaning and no bit of the word is ignored. -/
def Obligations.DecodesExactlyItsEncoding : Prop :=
  ∀ (w : Word) (i : Instr), decode w = .ok i ↔ w = encode i

/-- R14, R76: `valid(w)`, with R74's opcodes and R14's features written out. -/
def Obligations.ValidWordsAreTheRuledOnes : Prop :=
  ∀ (p : Params) (w : Word),
    validCommand p w ≠ none ↔
      (w.extractLsb' 9 23 = 0#23 ∧
        w.extractLsb' 0 8 ∈ [0x01#8, 0x02#8, 0x03#8, 0x10#8, 0x11#8, 0x12#8, 0x13#8, 0x20#8, 0x21#8, 0x30#8, 0x31#8, 0x40#8] ∧
        (w.getLsbD 8 = false ∨ w.extractLsb' 0 8 = 0x01#8) ∧
        (w.extractLsb' 0 8 = 0x02#8 → p.fDlMap = true) ∧
        (w.extractLsb' 0 8 = 0x13#8 → p.fXmit = true) ∧
        (w.extractLsb' 0 8 ∈ [0x10#8, 0x11#8, 0x12#8, 0x20#8, 0x21#8, 0x30#8] → p.fIoctl = true) ∧
        (w.extractLsb' 0 8 = 0x40#8 → p.fCrashLog = true))

/-- The words 30_encoding.md and 95_test_vectors.md write out decode to the commands they stand for. -/
def Obligations.SpecWordsDecode : Prop :=
  decode 0x00000001#32 = .ok (.mapBoot .download) ∧ decode 0x00000101#32 = .ok (.mapBoot .upload) ∧
    decode 0x00000002#32 = .ok .mapDl ∧ decode 0x00000003#32 = .ok .setMagic ∧
    decode 0x00000010#32 = .ok .prepare ∧ decode 0x00000011#32 = .ok .loadBin ∧
    decode 0x00000012#32 = .ok .loadNv ∧ decode 0x00000013#32 = .ok .xmit ∧
    decode 0x00000020#32 = .ok .ulStep1 ∧ decode 0x00000021#32 = .ok .ulStep2 ∧
    decode 0x00000030#32 = .ok .bootStart ∧ decode 0x00000031#32 = .ok .cpStart ∧
    decode 0x00000040#32 = .ok .crashLog ∧
    decode 0x00000000#32 = .error .unassignedOpcode ∧ decode 0x00000103#32 = .error .directionBit ∧
    decode 0x80000101#32 = .error .reservedBits

/-! ### Steps, acceptance and completion -/

/-- R127, R76: a Command-unit turn decodes a valid accepted word and from then on runs the command it stands for; with
BUSY = 0 the unit takes no step. A word placed by `withFetchWord` is run by the very next step (log 10). -/
def Obligations.CommandTurnRunsTheDecodedCommand : Prop :=
  (∀ (s : State) (rest : List Turn) (i : Instr), s.agenda = .command :: rest → s.busy = true →
    validCommand s.cfg.toParams s.cmdw = some i →
    (s.phase = .decode → step s = .next { s with agenda := rest, phase := .start }) ∧
      (s.phase ≠ .decode → step s = exec i { s with agenda := rest })) ∧
  (∀ (s : State) (rest : List Turn), s.agenda = .command :: rest → s.busy = false →
    step s = .next { s with agenda := rest }) ∧
  (∀ (s : State) (w : Word) (i : Instr), validCommand s.cfg.toParams w = some i →
    step (s.withFetchWord 32 w.toNat) =
      exec i { accept w s with phase := .start, lock := s.lock.dropCommand })

/-- R75: acceptance of a command word written to CMD while BUSY = 0, in that same host step. -/
def Obligations.AcceptanceSamplesTheOperands : Prop :=
  ∀ (s : State) (w : Word) (rest : List Turn), s.agenda = .hostWrite 0x00 4 w :: rest → s.busy = false →
    step s = .next
      { s with
        agenda := rest
        busy := true
        curOp := w.extractLsb' 0 8
        cmdw := w
        ops := s.opnd
        phase := .decode
        history := .cmdStart (w.extractLsb' 0 8) :: s.history }

/-- R119: what `finish` does, and nothing else. -/
def Obligations.FinishEndsTheCommand : Prop :=
  ∀ (code : ResultCode) (s : State),
    finish code s =
      { s with
        resultCode := code
        lastOp := s.cmdw.extractLsb' 0 8
        busy := false
        curOp := 0#8
        irqStatus := s.irqStatus ||| 0b0001#4
        phase := .idle
        lock := if s.lock = .command then .free else s.lock
        history := .cmdDone (s.cmdw.extractLsb' 0 8) code :: s.history }

/-- R76: an invalid word completes INVALID at its decode step; only BUSY, CUR_OP, RESULT and CMD_DONE change (and the
unit's phase and lock, the history and the schedule). -/
def Obligations.InvalidWordCompletesInvalid : Prop :=
  ∀ (s : State) (rest : List Turn), s.agenda = .command :: rest → s.busy = true →
    validCommand s.cfg.toParams s.cmdw = none →
    step s = .next
      { s with
        agenda := rest
        busy := false
        curOp := 0#8
        resultCode := .invalid
        lastOp := s.cmdw.extractLsb' 0 8
        irqStatus := s.irqStatus ||| 0b0001#4
        phase := .idle
        lock := if s.lock = .command then .free else s.lock
        history := .cmdDone (s.cmdw.extractLsb' 0 8) .invalid :: s.history }

/-- R119: RESULT changes only where a command completes (or at reset). -/
def Obligations.ResultIsWrittenOnlyAtCompletion : Prop :=
  ∀ (s t : State), step s = .next t →
    (t.resultCode = s.resultCode ∧ t.lastOp = s.lastOp) ∨
      s.agenda.head? = some .reset ∨
      (s.busy = true ∧ t.busy = false ∧ t.lastOp = s.cmdw.extractLsb' 0 8 ∧
        t.history.head? = some (.cmdDone (s.cmdw.extractLsb' 0 8) t.resultCode))

/-- R119: "For every accepted command, exactly one `finish` follows its `CmdStart`": the history keeps one completion for
each acceptance but the running command's, from reset on and through every step. -/
def Obligations.EveryAcceptanceHasOneCompletion : Prop :=
  (∀ (c : Config) (w h : Memory) (a : List Turn), HistoryBalanced (State.powerOn c w h a)) ∧
    ∀ (s t : State), HistoryBalanced s → step s = .next t → HistoryBalanced t

/-- R120: a command completes only with a result its row of the table lists. -/
def Obligations.ResultsAreTheTabledOnes : Prop :=
  ∀ (s t : State) (rest : List Turn) (i : Instr), s.agenda = .command :: rest → s.busy = true →
    validCommand s.cfg.toParams s.cmdw = some i → step s = .next t → t.busy = false →
    resultAllowed i t.resultCode = true

/-- R127, R64: a step makes at most one access of the engine, and the history only grows (reset empties it). -/
def Obligations.OneEngineAccessPerStep : Prop :=
  ∀ (s t : State), step s = .next t → s.agenda.head? ≠ some .reset →
    ∃ es : List Event, t.history = es ++ s.history ∧ es.countP engineAccess ≤ 1

/-- R51: a unit that would make an access while the other unit holds the port takes no step. -/
def Obligations.HeldUnitsWait : Prop :=
  (∀ (s : State), s.lock = .continuation →
    exec .setMagic s = .next s ∧ exec .cpStart s = .next s ∧
      (s.phase = .start → exec .bootStart s = .next s) ∧
      (∀ p, s.phase = .frame p → exec .loadBin s = .next s ∧ exec .loadNv s = .next s) ∧
      (∀ p, s.phase = .xmit p → exec .xmit s = .next s) ∧
      (s.phase = .success → exec .ulStep1 s = .next s) ∧
      (∀ p, s.phase = .upload p → exec .ulStep2 s = .next s) ∧
      (∀ i b, s.phase = .crash (.put i b) → exec .crashLog s = .next s) ∧
      (∀ i, s.phase = .crash (.byte i) → i < s.cfg.crashLen → exec .crashLog s = .next s)) ∧
  (∀ (s : State) (rest : List Turn), s.agenda = .continuation :: rest → s.lock = .command →
    step s = .next { s with agenda := rest })

/-- R30, R146: a command never reads the operand registers: with other values in them it does exactly the same. -/
def Obligations.OperandWritesDoNotDisturbACommand : Prop :=
  ∀ (i : Instr) (s : State) (o : Operands),
    exec i { s with opnd := o } = onNext (fun t => { t with opnd := o }) (exec i s)

/-! ### Reset and the invariant -/

/-- R137, R138: reset gives every register its value in one step, from every state, and leaves the configuration and host
memory as they were. That the window's bytes are as before is the model's reading (log 17): R139 calls the window after reset
unspecified and says that reset does not write it. -/
def Obligations.ResetSetsEveryRegister : Prop :=
  ∀ (s : State) (rest : List Turn), s.agenda = .reset :: rest →
    ∃ t, step s = .next t ∧
      (∀ r : Reg, readReg t r = resetValue s.cfg r) ∧
      (∀ off, regAt off = none → hostReadValue off 4 t = 0#32) ∧
      t.busy = false ∧ t.curOp = 0#8 ∧ t.cmdw = 0#32 ∧ t.phase = .idle ∧ t.lock = .free ∧ t.cont = .idle ∧
      t.contPending = false ∧ t.copyStarted = false ∧ t.copyComplete = false ∧ t.bootComplete = false ∧
      t.dlState = .idle ∧ t.ulState = .idle ∧ t.bootState = .none ∧
      t.resultCode = .none ∧ t.lastOp = 0#8 ∧ t.notifyEn = true ∧
      t.mbxIn = 0#16 ∧ t.pend = false ∧ t.mbxOut = 0#16 ∧ t.peerIrq = false ∧
      t.ops = { src := 0#32, total := 0#32, cap := 0#32, count := 0#32, ulDst := 0#32, ulLen := 0#32, crashDst := 0#32 } ∧
      hostIrq t = false ∧ t.history = [] ∧ t.cfg = s.cfg ∧ t.window = s.window ∧ t.hostMem = s.hostMem

/-- The invariant holds right after reset, whatever the configuration, the schedule and the (canonical) memories. -/
def Obligations.InvariantAtReset : Prop :=
  (∀ (c : Config) (w h : Memory) (a : List Turn),
    Memory.wf w = true → Memory.wf h = true → Memory.within c.shmSize w = true →
    Memory.within (2 ^ c.hostAddrW) h = true → Invariant (State.powerOn c w h a)) ∧
  Invariant State.reset

/-- Every step, of any agent, keeps the invariant. -/
def Obligations.StepKeepsTheInvariant : Prop :=
  ∀ (s t : State), Invariant s → step s = .next t → Invariant t

/-- R56, R58, R63: from a state of the invariant a step answers a next state, unless an outside agent names memory that does
not exist: no engine access is misaligned or leaves the window or host memory, and nothing is refused. -/
def Obligations.InvariantStatesStepSafely : Prop :=
  ∀ (s : State), Invariant s → SafeStep s

/-- R56: "no run reaches one": after reset, with any window and host memory contents and under any schedule, no run stops at
an engine access or at a refusal. -/
def Obligations.NoRunReachesAnEngineFault : Prop :=
  ∀ (c : Config) (w h : Memory) (a : List Turn) (n : Nat),
    Memory.wf w = true → Memory.wf h = true → Memory.within c.shmSize w = true →
    Memory.within (2 ^ c.hostAddrW) h = true →
    (∃ t, runSteps n (State.powerOn c w h a) = .next t) ∨
      (∃ f, runSteps n (State.powerOn c w h a) = .fault f ∧ f.outside = true)

/-- R35: PROG_REMAIN + PROG_SENT = PROG_TOTAL after reset, after every step of every run from reset, and after every step
from a state of the invariant. -/
def Obligations.ProgressAlwaysAddsUp : Prop :=
  (∀ (c : Config) (w h : Memory) (a : List Turn) (n : Nat) (t : State),
    Memory.wf w = true → Memory.wf h = true → Memory.within c.shmSize w = true →
    Memory.within (2 ^ c.hostAddrW) h = true →
    runSteps n (State.powerOn c w h a) = .next t → t.prog.remain + t.prog.sent = t.prog.total) ∧
  ∀ (s t : State), Invariant s → step s = .next t → t.prog.remain + t.prog.sent = t.prog.total

/-- R31: only MAP_BOOT, MAP_DL and reset change the current map. -/
def Obligations.OnlyMapCommandsChangeTheMap : Prop :=
  ∀ (s t : State), step s = .next t →
    (t.map = s.map ∧ t.mapDir = s.mapDir ∧ t.mapSel = s.mapSel) ∨
      s.agenda.head? = some .reset ∨
      (s.busy = true ∧
        (validCommand s.cfg.toParams s.cmdw = some .mapDl ∨
          ∃ d, validCommand s.cfg.toParams s.cmdw = some (.mapBoot d)))

/-- R33, R96 (90 C4): from a state of the invariant, only three steps change the progress counters: a reset, the Command
unit's step in the first phase of LOAD_BIN, LOAD_NV or PREPARE, and the Continuation unit's step that takes a queued
frame-ack during a transfer. -/
def Obligations.ProgressWriters : Prop :=
  ∀ (s t : State), Invariant s → step s = .next t →
    t.prog = s.prog ∨ nextTurn s = .reset ∨
      (nextTurn s = .command ∧ s.busy = true ∧ s.phase = .start ∧
        (validCommand s.cfg.toParams s.cmdw = some .loadBin ∨ validCommand s.cfg.toParams s.cmdw = some .loadNv ∨
          validCommand s.cfg.toParams s.cmdw = some .prepare)) ∨
      (nextTurn s = .continuation ∧ s.cont = .idle ∧ s.lock = .free ∧ s.contPending = true ∧
        s.dlState = .transferring ∧ t.contPending = false)

/-- R40: COPY_STARTED and BOOT_COMPLETE are set only by the Notification unit taking their codes and cleared only by the
Command unit's poll that consumes them (or reset); COPY_COMPLETE changes only in the Command unit's step inside LOAD's wait
(or at reset). No host access changes a latch. -/
def Obligations.LatchWriters : Prop :=
  ∀ (s t : State), step s = .next t → nextTurn s ≠ .reset →
    (t.copyStarted = s.copyStarted ∨
      (nextTurn s = .notification ∧ t.copyStarted = true ∧ t.pend = false ∧ s.notifyEn = true ∧ s.pend = true ∧
        s.mbxIn = s.cfg.codeDlReady) ∨
      (nextTurn s = .command ∧ t.copyStarted = false ∧ s.busy = true ∧ s.phase = .wait ∧
        validCommand s.cfg.toParams s.cmdw = some .prepare)) ∧
    (t.bootComplete = s.bootComplete ∨
      (nextTurn s = .notification ∧ t.bootComplete = true ∧ t.pend = false ∧ s.notifyEn = true ∧ s.pend = true ∧
        s.mbxIn = s.cfg.codeBooting) ∨
      (nextTurn s = .command ∧ t.bootComplete = false ∧ s.busy = true ∧ s.phase = .wait ∧
        validCommand s.cfg.toParams s.cmdw = some .bootStart)) ∧
    (t.copyComplete = s.copyComplete ∨
      (nextTurn s = .command ∧ s.busy = true ∧ s.phase = .wait ∧
        (validCommand s.cfg.toParams s.cmdw = some .loadBin ∨ validCommand s.cfg.toParams s.cmdw = some .loadNv))) ∧
    ((nextTurn s).ofHost = true →
      t.copyStarted = s.copyStarted ∧ t.bootComplete = s.bootComplete ∧ t.copyComplete = s.copyComplete)

/-! ### The host's register window -/

/-- R23, R26, R144: a CMD or CTRL write while BUSY = 1 is dropped and sets OVERRUN; while BUSY = 0 a CTRL write sets
NOTIFY_EN to bit 0. -/
def Obligations.WritesWhileBusyAreDropped : Prop :=
  ∀ (s : State) (v : Word) (off : Nat) (rest : List Turn), s.agenda = .hostWrite off 4 v :: rest →
    ((off = 0x00 ∨ off = 0x0C) → s.busy = true →
      step s = .next { s with agenda := rest, irqStatus := s.irqStatus ||| 0b1000#4 }) ∧
    (off = 0x0C → s.busy = false → step s = .next { s with agenda := rest, notifyEn := v.getLsbD 0 })

/-- R21, R22: a host read changes no register: a 32-bit read at an offset of R22's map gives the field of that offset (the
words of STATUS, RESULT, the mailbox views, LAST_UNRECOG and CAPS are StatusFields' and ViewRegisterFields'), any other read
gives 0. Where the answer is kept is the model's (log 14). -/
def Obligations.HostReadsHaveNoSideEffect : Prop :=
  ∀ (s : State) (off width : Nat) (rest : List Turn), s.agenda = .hostRead off width :: rest →
    (∀ r, width = 4 → regAt off = some r → step s = .next { s with agenda := rest, hostRdata := readReg s r }) ∧
    (∀ v, width = 4 →
      (off, v) ∈
        [(0x00, 0#32), (0x04, readReg s .status), (0x08, readReg s .result),
          (0x0C, if s.notifyEn = true then 1#32 else 0#32),
          (0x10, BitVec.ofNat 32 s.irqStatus.toNat), (0x14, BitVec.ofNat 32 s.irqEnable.toNat),
          (0x18, s.opnd.src), (0x1C, s.opnd.total), (0x20, s.opnd.cap), (0x24, s.opnd.count),
          (0x28, s.opnd.ulDst), (0x2C, s.opnd.ulLen), (0x30, s.opnd.crashDst),
          (0x34, s.map.buf), (0x38, s.map.size), (0x3C, s.map.tag), (0x40, s.map.count),
          (0x44, (if s.mapSel = .secondary then 2#32 else 0#32) + (if s.mapDir = .upload then 1#32 else 0#32)),
          (0x48, s.prog.total), (0x4C, s.prog.remain), (0x50, s.prog.sent),
          (0x54, s.cur.src), (0x58, s.cur.frame), (0x5C, s.cur.tag), (0x60, s.cur.count),
          (0x64, s.ulLast.size), (0x68, s.ulLast.tag), (0x6C, s.ulLast.count),
          (0x70, readReg s .mbxInView), (0x74, readReg s .mbxOutView), (0x78, readReg s .lastUnrecog),
          (0x7C, s.pollLeft), (0x80, readReg s .caps)] →
      step s = .next { s with agenda := rest, hostRdata := v }) ∧
    ((width ≠ 4 ∨ off % 4 ≠ 0 ∨ 0x84 ≤ off) → step s = .next { s with agenda := rest, hostRdata := 0#32 })

/-- R21, R22: a write to a read-only register, a narrow or unaligned write and a write to a reserved offset have no effect
(0x34 to 0x80 and STATUS and RESULT are read-only). -/
def Obligations.IneffectiveHostWrites : Prop :=
  ∀ (s : State) (off width : Nat) (v : Word) (rest : List Turn), s.agenda = .hostWrite off width v :: rest →
    (width ≠ 4 ∨ off % 4 ≠ 0 ∨ off = 0x04 ∨ off = 0x08 ∨ 0x34 ≤ off) → step s = .next { s with agenda := rest }

/-- R29: each operand register takes all 32 bits, at any time, and no other register changes. -/
def Obligations.OperandWritesLand : Prop :=
  ∀ (s : State) (off : Nat) (v : Word) (rest : List Turn), s.agenda = .hostWrite off 4 v :: rest →
    (off = 0x18 → step s = .next { s with agenda := rest, opnd := { s.opnd with src := v } }) ∧
    (off = 0x1C → step s = .next { s with agenda := rest, opnd := { s.opnd with total := v } }) ∧
    (off = 0x20 → step s = .next { s with agenda := rest, opnd := { s.opnd with cap := v } }) ∧
    (off = 0x24 → step s = .next { s with agenda := rest, opnd := { s.opnd with count := v } }) ∧
    (off = 0x28 → step s = .next { s with agenda := rest, opnd := { s.opnd with ulDst := v } }) ∧
    (off = 0x2C → step s = .next { s with agenda := rest, opnd := { s.opnd with ulLen := v } }) ∧
    (off = 0x30 → step s = .next { s with agenda := rest, opnd := { s.opnd with crashDst := v } })

/-- R27, R125: a write to IRQ_STATUS clears exactly the bits written as 1; a write to IRQ_ENABLE replaces bits 3:0. -/
def Obligations.IrqRegisterWrites : Prop :=
  ∀ (s : State) (v : Word) (off : Nat) (rest : List Turn), s.agenda = .hostWrite off 4 v :: rest →
    (off = 0x10 → ∃ t, step s = .next t ∧ t = { s with agenda := rest, irqStatus := t.irqStatus } ∧
      ∀ i, i < 4 → t.irqStatus.getLsbD i = (s.irqStatus.getLsbD i && !v.getLsbD i)) ∧
    (off = 0x14 → ∃ t, step s = .next t ∧ t = { s with agenda := rest, irqEnable := t.irqEnable } ∧
      ∀ i, i < 4 → t.irqEnable.getLsbD i = v.getLsbD i)

/-- R28: HOST_IRQ is the OR over the four causes of status AND enable, and is 0 after reset. -/
def Obligations.HostIrqIsTheMaskedOr : Prop :=
  (∀ (s : State), hostIrq s = true ↔
    ∃ i, i < 4 ∧ s.irqStatus.getLsbD i = true ∧ s.irqEnable.getLsbD i = true) ∧
  ∀ (c : Config) (w h : Memory) (a : List Turn), hostIrq (State.powerOn c w h a) = false

/-- R24, R37 to R39: the fields of STATUS at their bits, reserved bits 0. -/
def Obligations.StatusFields : Prop :=
  ∀ (s : State),
    (readReg s .status).getLsbD 0 = s.busy ∧ (readReg s .status).getLsbD 1 = s.contPending ∧
      (readReg s .status).getLsbD 2 = s.copyStarted ∧ (readReg s .status).getLsbD 3 = s.copyComplete ∧
      (readReg s .status).getLsbD 4 = s.bootComplete ∧
      (readReg s .status).extractLsb' 5 3 = 0#3 ∧
      (readReg s .status).extractLsb' 8 3 =
        (match s.dlState with
         | .idle => 0#3
         | .awaitingPeerReady => 1#3
         | .peerReady => 2#3
         | .transferring => 3#3
         | .complete => 4#3
         | .timeoutFailed => 5#3) ∧
      (readReg s .status).getLsbD 11 = false ∧
      (readReg s .status).extractLsb' 12 3 =
        (match s.ulState with
         | .idle => 0#3
         | .handshake => 1#3
         | .frameLoop => 2#3
         | .done => 3#3
         | .timeoutFailed => 4#3) ∧
      (readReg s .status).getLsbD 15 = false ∧
      (readReg s .status).extractLsb' 16 3 =
        (match s.bootState with
         | .none => 0#3
         | .waitBooting => 1#3
         | .booted => 2#3
         | .initEndSent => 3#3
         | .timeoutFailed => 4#3) ∧
      (readReg s .status).extractLsb' 19 5 = 0#5 ∧
      (readReg s .status).extractLsb' 24 8 = s.curOp

/-- R25, R44 to R46, R49: the fields of RESULT, the mailbox views, LAST_UNRECOG and CAPS at their bits, reserved bits 0. -/
def Obligations.ViewRegisterFields : Prop :=
  ∀ (s : State),
    (readReg s .result).extractLsb' 0 8 =
        (match s.resultCode with
         | .none => 0#8
         | .ok => 1#8
         | .timeout => 2#8
         | .mismatch => 3#8
         | .nomem => 4#8
         | .invalid => 5#8) ∧
      (readReg s .result).extractLsb' 8 8 = s.lastOp ∧ (readReg s .result).extractLsb' 16 16 = 0#16 ∧
      (readReg s .mbxInView).extractLsb' 0 16 = s.mbxIn ∧ (readReg s .mbxInView).getLsbD 16 = s.pend ∧
      (readReg s .mbxInView).extractLsb' 17 15 = 0#15 ∧
      (readReg s .mbxOutView).extractLsb' 0 16 = s.mbxOut ∧ (readReg s .mbxOutView).getLsbD 16 = s.peerIrq ∧
      (readReg s .mbxOutView).extractLsb' 17 15 = 0#15 ∧
      (readReg s .lastUnrecog).extractLsb' 0 16 = s.lastUnrecog.code ∧
      (readReg s .lastUnrecog).getLsbD 16 = s.lastUnrecog.valid ∧
      (readReg s .lastUnrecog).extractLsb' 17 15 = 0#15 ∧
      (readReg s .caps).getLsbD 0 = s.cfg.fDlMap ∧ (readReg s .caps).getLsbD 1 = s.cfg.fXmit ∧
      (readReg s .caps).getLsbD 2 = s.cfg.fIoctl ∧ (readReg s .caps).getLsbD 3 = s.cfg.fCrashLog ∧
      (readReg s .caps).getLsbD 4 = s.cfg.nvCountIncrements ∧ (readReg s .caps).extractLsb' 5 27 = 0#27

/-! ### Memory, mailboxes and the peer -/

/-- R56, R57: a 4-byte engine write at an aligned offset inside the window is one access that stores the word least
significant byte first, leaves every other byte, and is read back by a 4-byte read. That it faults elsewhere, by these names,
is the model's choice (log 12): R56 only says that a model may treat such a call as a fault. -/
def Obligations.WindowWordAccess : Prop :=
  ∀ (s : State) (a : Nat) (v : Word), Memory.wf s.window = true →
    (a % 4 = 0 → a + 4 ≤ s.cfg.shmSize →
      ∃ t, memWrite4 a v s = .ok t ∧
        t = { s with window := t.window, history := .memWr .engine a 4 v.toNat :: s.history } ∧
        Memory.read t.window a = v.extractLsb' 0 8 ∧ Memory.read t.window (a + 1) = v.extractLsb' 8 8 ∧
        Memory.read t.window (a + 2) = v.extractLsb' 16 8 ∧ Memory.read t.window (a + 3) = v.extractLsb' 24 8 ∧
        (∀ b, Outside b a 4 → Memory.read t.window b = Memory.read s.window b) ∧
        memRead4 a t = .ok (v, { t with history := .memRd .engine a 4 v.toNat :: t.history })) ∧
    (a % 4 ≠ 0 → memWrite4 a v s = .error (.windowAlign a)) ∧
    (a % 4 = 0 → s.cfg.shmSize < a + 4 → memWrite4 a v s = .error (.windowRange a 4))

/-- R107 to R109: TakeIn clears PEND and keeps the value; PeekIn changes no register; Send fills the outbound mailbox and
raises PEER_IRQ, recording a code the peer had not read. -/
def Obligations.MailboxPrimitives : Prop :=
  ∀ (s : State) (c : Code),
    takeIn s = (s.mbxIn, { s with pend := false, history := .takeIn s.mbxIn :: s.history }) ∧
      peekIn s = (s.mbxIn, { s with history := .peekIn s.mbxIn :: s.history }) ∧
      send c s =
        { s with
          mbxOut := c
          peerIrq := true
          history :=
            .send c :: (if s.peerIrq = true then .outOverwritten s.mbxOut :: s.history else s.history) }

/-- R104: a peer notification fills MBX_IN and sets PEND, at any time; an unconsumed code is overwritten. -/
def Obligations.PeerNotifyFillsTheMailbox : Prop :=
  ∀ (s : State) (c : Code) (rest : List Turn), s.agenda = .peerNotify c :: rest →
    step s = .next
      { s with
        agenda := rest
        mbxIn := c
        pend := true
        history :=
          .notify c :: (if s.pend = true then .overwritten s.mbxIn :: s.history else s.history) }

/-- R105: a peer read of the outbound mailbox returns MBX_OUT (in the event) and clears PEER_IRQ. -/
def Obligations.PeerReadOutLowersTheLine : Prop :=
  ∀ (s : State) (rest : List Turn), s.agenda = .peerReadOut :: rest →
    step s = .next { s with agenda := rest, peerIrq := false, history := .peerRead s.mbxOut :: s.history }

/-- R106: a peer store inside the window writes exactly its bytes; outside the window there are no bytes
(the model's fault, log 12). -/
def Obligations.PeerStoresExactlyItsBytes : Prop :=
  ∀ (s : State) (off : Nat) (bytes : List Byte) (rest : List Turn), s.agenda = .peerStore off bytes :: rest →
    Memory.wf s.window = true →
    (off + bytes.length ≤ s.cfg.shmSize →
      ∃ t, step s = .next t ∧ t = { s with agenda := rest, window := t.window, history := t.history } ∧
        Memory.wf t.window = true ∧ Memory.readBytes t.window off bytes.length = bytes ∧
        ∀ b, Outside b off bytes.length → Memory.read t.window b = Memory.read s.window b) ∧
    (s.cfg.shmSize < off + bytes.length → step s = .fault (.peerRange off bytes.length))

/-! ### The Notification unit -/

/-- R110, R111: while NOTIFY_EN = 1 and PEND = 1 a Notification-unit step takes the code, sets NOTIFY_RX and dispatches it:
the ready and booting codes set their latches, a frame-ack queues a continuation (merging into one already queued), any other
code goes to R112. While NOTIFY_EN = 0 or PEND = 0 it takes no step and a code stays in the mailbox (R126). -/
def Obligations.NotificationDispatch : Prop :=
  (∀ (s : State) (rest : List Turn), s.agenda = .notification :: rest → (s.notifyEn = false ∨ s.pend = false) →
    step s = .next { s with agenda := rest }) ∧
  ∀ (s : State) (rest : List Turn), s.agenda = .notification :: rest → s.notifyEn = true → s.pend = true →
    (s.mbxIn = s.cfg.codeDlReady →
      step s = .next
        { s with
          agenda := rest
          pend := false
          irqStatus := s.irqStatus ||| 0b0010#4
          copyStarted := true
          history := .latchSet .copyStarted :: .takeIn s.mbxIn :: s.history }) ∧
    (s.mbxIn = s.cfg.codeFrameAck →
      step s = .next
        { s with
          agenda := rest
          pend := false
          irqStatus := s.irqStatus ||| 0b0010#4
          contPending := true
          history := .takeIn s.mbxIn :: s.history }) ∧
    (s.mbxIn = s.cfg.codeBooting →
      step s = .next
        { s with
          agenda := rest
          pend := false
          irqStatus := s.irqStatus ||| 0b0010#4
          bootComplete := true
          history := .latchSet .bootComplete :: .takeIn s.mbxIn :: s.history }) ∧
    (s.mbxIn ≠ s.cfg.codeDlReady → s.mbxIn ≠ s.cfg.codeFrameAck → s.mbxIn ≠ s.cfg.codeBooting →
      step s = .next (unrecognized s.mbxIn
        { s with
          agenda := rest
          pend := false
          irqStatus := s.irqStatus ||| 0b0010#4
          history := .takeIn s.mbxIn :: s.history }))

/-- R112: an unrecognized code is taken, recorded in LAST_UNRECOG and IRQ_STATUS.UNRECOG and dropped; nothing else changes.
0x9999 always is one (R78). -/
def Obligations.UnrecognizedCodeIsDropped : Prop :=
  (∀ (s : State) (rest : List Turn), s.agenda = .notification :: rest → s.notifyEn = true → s.pend = true →
    s.mbxIn ≠ s.cfg.codeDlReady → s.mbxIn ≠ s.cfg.codeFrameAck → s.mbxIn ≠ s.cfg.codeBooting →
    step s = .next
      { s with
        agenda := rest
        pend := false
        irqStatus := s.irqStatus ||| 0b0010#4 ||| 0b0100#4
        lastUnrecog := { valid := true, code := s.mbxIn }
        history := .dropped s.mbxIn :: .takeIn s.mbxIn :: s.history }) ∧
  ∀ (c : Config), c.codeDlReady ≠ 0x9999#16 ∧ c.codeFrameAck ≠ 0x9999#16 ∧ c.codeBooting ≠ 0x9999#16

/-! ### Map and header commands -/

/-- R84, R85: MAP_BOOT completes OK with the boot map of its direction, MAP_DL with the secondary map; nothing else
changes. -/
def Obligations.MapCommandsSelectTheirMap : Prop :=
  ∀ (s : State),
    exec (.mapBoot .download) s = .next (finish .ok
      { s with
        map := { buf := s.cfg.offBuf, size := s.cfg.offSize, tag := s.cfg.offTag, count := s.cfg.offCount }
        mapDir := .download
        mapSel := .boot }) ∧
    exec (.mapBoot .upload) s = .next (finish .ok
      { s with
        map :=
          { buf := s.cfg.ulRegionOff + s.cfg.offBuf
            size := s.cfg.ulRegionOff + s.cfg.offSize
            tag := s.cfg.ulRegionOff + s.cfg.offTag
            count := s.cfg.ulRegionOff + s.cfg.offCount }
        mapDir := .upload
        mapSel := .boot }) ∧
    exec .mapDl s = .next (finish .ok
      { s with
        map :=
          { buf := s.cfg.dlmapOffBuf
            size := s.cfg.dlmapOffSize
            tag := s.cfg.dlmapOffTag
            count := s.cfg.dlmapOffCount }
        mapDir := .download
        mapSel := .secondary })

/-- R86: SET_MAGIC, not held, completes OK having written DL_MAGIC at HDR_MAGIC_OFF and no other byte. That
the write and the end share a step is the model's reading (log 7). -/
def Obligations.SetMagicWritesTheMagic : Prop :=
  ∀ (s : State), s.lock ≠ .continuation → Memory.wf s.window = true →
    ∃ t, exec .setMagic s = .next t ∧
      Memory.readWord t.window s.cfg.hdrMagicOff.toNat = s.cfg.dlMagic ∧
      (∀ b, Outside b s.cfg.hdrMagicOff.toNat 4 → Memory.read t.window b = Memory.read s.window b) ∧
      t = finish .ok
        { s with
          lock := .free
          window := t.window
          history := .memWr .engine s.cfg.hdrMagicOff.toNat 4 s.cfg.dlMagic.toNat :: s.history }

/-! ### Download -/

/-- R89: PREPARE's START, and its WAIT: the latch ends it OK, the last failed check ends it TIMEOUT.
POLL_LEFT is loaded as the wait is entered (log 8). -/
def Obligations.PreparePhases : Prop :=
  ∀ (s : State),
    (s.phase = .start →
      exec .prepare s = .next
        { s with
          dlState := .awaitingPeerReady
          prog := { total := 0#32, remain := 0#32, sent := 0#32 }
          cur := { src := 0#32, frame := 0#32, tag := 0#32, count := 0#32 }
          contPending := false
          pollLeft := s.cfg.nPrepare
          phase := .wait }) ∧
    (s.phase = .wait → s.copyStarted = true →
      exec .prepare s = .next (finish .ok
        { s with
          copyStarted := false
          dlState := .peerReady
          history := .latchConsumed .copyStarted :: s.history })) ∧
    (s.phase = .wait → s.copyStarted = false → s.pollLeft ≠ 1#32 →
      exec .prepare s = .next { s with pollLeft := s.pollLeft - 1#32 }) ∧
    (s.phase = .wait → s.copyStarted = false → s.pollLeft = 1#32 →
      exec .prepare s = .next (finish .timeout { s with pollLeft := 0#32, dlState := .timeoutFailed }))

/-- R12, R89 and the source's scenario (V3): with no ready code, PREPARE checks exactly N_PREPARE times and then fails
TIMEOUT; it is busy until then, writes no window byte and sends nothing. -/
def Obligations.PrepareTimesOutAfterItsBudget : Prop :=
  ∀ (s : State) (rest : List Turn), s.busy = true → validCommand s.cfg.toParams s.cmdw = some .prepare →
    s.phase = .start → s.copyStarted = false →
    s.agenda = List.replicate (s.cfg.nPrepare.toNat + 1) Turn.command ++ rest →
    (∀ k, k ≤ s.cfg.nPrepare.toNat → ∃ t, runSteps k s = .next t ∧ t.busy = true) ∧
    runSteps (s.cfg.nPrepare.toNat + 1) s = .next (finish .timeout
      { s with
        agenda := rest
        dlState := .timeoutFailed
        prog := { total := 0#32, remain := 0#32, sent := 0#32 }
        cur := { src := 0#32, frame := 0#32, tag := 0#32, count := 0#32 }
        contPending := false
        pollLeft := 0#32 })

/-- R90: LOAD's checks in their order; the first that fails decides the result, and nothing else changes. -/
def Obligations.LoadChecksInOrder : Prop :=
  ∀ (s : State) (i : Instr), (i = .loadBin ∨ i = .loadNv) → s.phase = .start →
    (s.dlState ≠ .peerReady → s.dlState ≠ .complete → exec i s = .next (finish .invalid s)) ∧
    ((s.dlState = .peerReady ∨ s.dlState = .complete) →
      (s.ops.total = 0#32 → exec i s = .next (finish .invalid s)) ∧
      (s.ops.total ≠ 0#32 →
        (s.ops.cap = 0#32 ∨ s.cfg.bufCap < s.ops.cap.toNat → exec i s = .next (finish .invalid s)) ∧
        (s.ops.cap ≠ 0#32 → s.ops.cap.toNat ≤ s.cfg.bufCap →
          (2 ^ s.cfg.hostAddrW < s.ops.src.toNat + s.ops.total.toNat → exec i s = .next (finish .invalid s)) ∧
          (s.ops.src.toNat + s.ops.total.toNat ≤ 2 ^ s.cfg.hostAddrW →
            s.cfg.xferBufMax < s.ops.total.toNat → exec i s = .next (finish .nomem s)))))

/-- R91: when every check passes, SETUP is in the same step: the counters, the descriptor (NV counts from 1) and the state. -/
def Obligations.LoadSetsUpTheTransfer : Prop :=
  ∀ (s : State), s.phase = .start → (s.dlState = .peerReady ∨ s.dlState = .complete) →
    s.ops.total ≠ 0#32 → s.ops.cap ≠ 0#32 → s.ops.cap.toNat ≤ s.cfg.bufCap →
    s.ops.src.toNat + s.ops.total.toNat ≤ 2 ^ s.cfg.hostAddrW → s.ops.total.toNat ≤ s.cfg.xferBufMax →
    exec .loadBin s = .next
      { s with
        prog := { total := s.ops.total, remain := s.ops.total, sent := 0#32 }
        cur :=
          { src := s.ops.src
            frame := if s.ops.cap.toNat ≤ s.ops.total.toNat then s.ops.cap else s.ops.total
            tag := s.cfg.tagBin
            count := s.ops.count }
        contPending := false
        dlState := .transferring
        phase := .frame (.byte 0) } ∧
    exec .loadNv s = .next
      { s with
        prog := { total := s.ops.total, remain := s.ops.total, sent := 0#32 }
        cur :=
          { src := s.ops.src
            frame := if s.ops.cap.toNat ≤ s.ops.total.toNat then s.ops.cap else s.ops.total
            tag := s.cfg.tagNv
            count := 1#32 }
        contPending := false
        dlState := .transferring
        phase := .frame (.byte 0) }

/-- R88, R91: from a state of the invariant, FIRST_FRAME's accesses put the frame's bytes in the buffer and its size, tag and
count in the three fields, change no other byte, signal the peer, and start WAIT. That POLL_LEFT is
loaded in the Send's step is the model's reading (log 8). -/
def Obligations.FirstFrameIsTransferred : Prop :=
  ∀ (s : State) (rest : List Turn), Invariant s → s.busy = true →
    (validCommand s.cfg.toParams s.cmdw = some .loadBin ∨ validCommand s.cfg.toParams s.cmdw = some .loadNv) →
    s.phase = .frame (.byte 0) → s.lock = .free →
    s.agenda = List.replicate (2 * s.cur.frame.toNat + 4) Turn.command ++ rest →
    ∃ t, runSteps (2 * s.cur.frame.toNat + 4) s = .next t ∧
      (∀ i, i < s.cur.frame.toNat →
        Memory.read t.window (s.map.buf.toNat + i) = Memory.read s.hostMem (byteAddr s.cur.src i)) ∧
      Memory.readWord t.window s.map.size.toNat = s.cur.frame ∧
      Memory.readWord t.window s.map.tag.toNat = s.cur.tag ∧
      Memory.readWord t.window s.map.count.toNat = s.cur.count ∧
      (∀ b, Outside b s.map.buf.toNat s.cur.frame.toNat → Outside b s.map.size.toNat 4 →
        Outside b s.map.tag.toNat 4 → Outside b s.map.count.toNat 4 →
        Memory.read t.window b = Memory.read s.window b) ∧
      t =
        { s with
          agenda := rest
          phase := .wait
          pollLeft :=
            if validCommand s.cfg.toParams s.cmdw = some .loadBin then s.cfg.nWaitBin else s.cfg.nWaitNv
          mbxOut := s.cfg.codeFrameSent
          peerIrq := true
          window := t.window
          history := t.history }

/-- R92: LOAD's wait: the size check completes it OK (setting and consuming COPY_COMPLETE in the tick), the last failed check
ends it TIMEOUT with the transfer cleared. -/
def Obligations.LoadWaitTicks : Prop :=
  ∀ (s : State) (i : Instr), (i = .loadBin ∨ i = .loadNv) → s.phase = .wait → s.copyComplete = false →
    (s.prog.total.toNat ≤ s.prog.sent.toNat →
      exec i s = .next (finish .ok
        { s with history := .latchConsumed .copyComplete :: .latchSet .copyComplete :: s.history })) ∧
    (s.prog.sent.toNat < s.prog.total.toNat → s.pollLeft ≠ 1#32 →
      exec i s = .next { s with pollLeft := s.pollLeft - 1#32 }) ∧
    (s.prog.sent.toNat < s.prog.total.toNat → s.pollLeft = 1#32 →
      exec i s = .next (finish .timeout
        { s with
          pollLeft := 0#32
          dlState := .timeoutFailed
          cur := { s.cur with tag := 0#32 }
          contPending := false }))

/-- R95, R96: the per-frame step's register updates: a stale ack changes only CONT_PENDING, the last frame's ack completes
the transfer and clears CUR_TAG with no frame, no Send and no latch, any other takes the port for the next
frame. That these updates are a step of their own is the model's reading (log 7). -/
def Obligations.PerFrameStep : Prop :=
  ∀ (s : State) (rest : List Turn), s.agenda = .continuation :: rest → s.contPending = true → s.cont = .idle →
    s.lock = .free →
    (s.dlState ≠ .transferring → step s = .next { s with agenda := rest, contPending := false }) ∧
    (s.dlState = .transferring →
      ∀ (frame count : Word),
      frame = (if (s.prog.remain - s.cur.frame).toNat < s.cur.frame.toNat then s.prog.remain - s.cur.frame
        else s.cur.frame) →
      count = (if s.cur.tag ≠ s.cfg.tagNv ∨ s.cfg.nvCountIncrements = true then s.cur.count + 1#32 else s.cur.count) →
      (s.prog.total.toNat ≤ (s.prog.sent + s.cur.frame).toNat →
        step s = .next
          { s with
            agenda := rest
            contPending := false
            dlState := .complete
            cur := { src := s.cur.src + s.cur.frame, frame := frame, tag := 0#32, count := count }
            prog :=
              { total := s.prog.total
                remain := s.prog.remain - s.cur.frame
                sent := s.prog.sent + s.cur.frame } }) ∧
      ((s.prog.sent + s.cur.frame).toNat < s.prog.total.toNat →
        step s = .next
          { s with
            agenda := rest
            contPending := false
            cur := { src := s.cur.src + s.cur.frame, frame := frame, tag := s.cur.tag, count := count }
            prog :=
              { total := s.prog.total
                remain := s.prog.remain - s.cur.frame
                sent := s.prog.sent + s.cur.frame }
            cont := .frame (.byte 0)
            lock := .continuation }))

/-- R88, R96: from a state of the invariant, a frame-ack that is not the last one's makes the Continuation unit send the next
frame: its bytes, fields and signal, and no other byte of the window. That the register updates are a turn of their own,
counted in 2n + 5, is the model's reading (log 7), and so is that CUR_SRC wraps at 2^32 where HOST_ADDR_W is above 32 and the
source range passes 2^32 (log 18). -/
def Obligations.FrameAckTransfersTheNextFrame : Prop :=
  ∀ (s : State) (rest : List Turn) (n : Nat), Invariant s → s.dlState = .transferring → s.contPending = true →
    s.cont = .idle → s.lock = .free → s.cur.frame.toNat < s.prog.remain.toNat →
    n = min s.cur.frame.toNat (s.prog.remain.toNat - s.cur.frame.toNat) →
    s.agenda = List.replicate (2 * n + 5) Turn.continuation ++ rest →
    ∃ t, runSteps (2 * n + 5) s = .next t ∧
      t.cur.src = s.cur.src + s.cur.frame ∧ t.cur.frame.toNat = n ∧ t.cur.tag = s.cur.tag ∧
      t.cur.count =
        (if s.cur.tag ≠ s.cfg.tagNv ∨ s.cfg.nvCountIncrements = true then s.cur.count + 1#32 else s.cur.count) ∧
      t.prog =
        { total := s.prog.total, remain := s.prog.remain - s.cur.frame, sent := s.prog.sent + s.cur.frame } ∧
      (∀ i, i < n →
        Memory.read t.window (s.map.buf.toNat + i) = Memory.read s.hostMem (byteAddr (s.cur.src + s.cur.frame) i)) ∧
      Memory.readWord t.window s.map.size.toNat = t.cur.frame ∧
      Memory.readWord t.window s.map.tag.toNat = s.cur.tag ∧
      Memory.readWord t.window s.map.count.toNat = t.cur.count ∧
      (∀ b, Outside b s.map.buf.toNat n → Outside b s.map.size.toNat 4 →
        Outside b s.map.tag.toNat 4 → Outside b s.map.count.toNat 4 →
        Memory.read t.window b = Memory.read s.window b) ∧
      t =
        { s with
          agenda := rest
          contPending := false
          cur := t.cur
          prog := t.prog
          mbxOut := s.cfg.codeFrameSent
          peerIrq := true
          window := t.window
          history := t.history }

/-- R97: for every size S and cap F, from a LOAD's SETUP the per-frame updates give exactly ceil(S/F) frames: all of F bytes
but the last, which has the rest, their sizes summing to S; the counters, the source pointer and the sequence count
follow, modulo 2^32 (R16; log 18 where HOST_ADDR_W is above 32), and the sent size reaches S at the last frame's ack and not
before. -/
def Obligations.FrameAccounting : Prop :=
  ∀ (s : State) (kind : LoadKind) (S F k : Nat) (at_ : Nat → State),
    1 ≤ S → 1 ≤ F → s.ops.total.toNat = S → s.ops.cap.toNat = F → k = (S + F - 1) / F →
    at_ 0 = loadSetup kind s → (∀ j, at_ (j + 1) = advanceFrame (at_ j)) →
    (∀ j, j < k →
      (at_ j).cur.frame.toNat = (if j + 1 < k then F else S - (k - 1) * F) ∧
        (at_ j).prog.sent.toNat = j * F ∧ (at_ j).prog.remain.toNat = S - j * F ∧ j * F < S ∧
        (at_ j).cur.src = s.ops.src + BitVec.ofNat 32 (j * F)) ∧
    (at_ k).prog.sent.toNat = S ∧ (at_ k).prog.remain = 0#32 ∧ (at_ k).cur.frame = 0#32 ∧
    (at_ k).prog.total = s.ops.total ∧
    ((List.range k).map fun j => (at_ j).cur.frame.toNat).sum = S ∧
    (kind = .bin → (at_ k).cur.count = s.ops.count + BitVec.ofNat 32 k) ∧
    (kind = .nv → s.cfg.nvCountIncrements = true → (at_ k).cur.count = 1#32 + BitVec.ofNat 32 k) ∧
    (kind = .nv → s.cfg.nvCountIncrements = false → (at_ k).cur.count = 1#32)

/-- R99: XMIT's checks, and its completion: the Send ends it OK. That the Send and the end share a step is the model's
reading (log 7). -/
def Obligations.XmitPhases : Prop :=
  ∀ (s : State),
    (s.phase = .start → (s.ops.total = 0#32 ∨ s.cfg.bufCap < s.ops.total.toNat) →
      exec .xmit s = .next (finish .invalid s)) ∧
    (s.phase = .start → s.ops.total ≠ 0#32 → s.ops.total.toNat ≤ s.cfg.bufCap →
      (2 ^ s.cfg.hostAddrW < s.ops.src.toNat + s.ops.total.toNat → exec .xmit s = .next (finish .invalid s)) ∧
      (s.ops.src.toNat + s.ops.total.toNat ≤ 2 ^ s.cfg.hostAddrW →
        exec .xmit s = .next { s with phase := .xmit (.byte 0) })) ∧
    (s.phase = .xmit .send → s.lock ≠ .continuation →
      exec .xmit s = .next (finish .ok { send s.cfg.codeXmitSent s with lock := .free }))

/-- R99: from a state of the invariant, XMIT copies the unit to the buffer, writes the size field and no other byte, signals
the peer and completes OK. That the Send carries the end, in the count of turns, is the model's reading (log 7). -/
def Obligations.XmitTransfersTheUnit : Prop :=
  ∀ (s : State) (rest : List Turn), Invariant s → s.busy = true →
    validCommand s.cfg.toParams s.cmdw = some .xmit → s.phase = .start → s.lock = .free →
    s.ops.total ≠ 0#32 → s.ops.total.toNat ≤ s.cfg.bufCap →
    s.ops.src.toNat + s.ops.total.toNat ≤ 2 ^ s.cfg.hostAddrW →
    s.agenda = List.replicate (2 * s.ops.total.toNat + 3) Turn.command ++ rest →
    ∃ t, runSteps (2 * s.ops.total.toNat + 3) s = .next t ∧
      (∀ i, i < s.ops.total.toNat →
        Memory.read t.window (s.map.buf.toNat + i) = Memory.read s.hostMem (byteAddr s.ops.src i)) ∧
      Memory.readWord t.window s.map.size.toNat = s.ops.total ∧
      (∀ b, Outside b s.map.buf.toNat s.ops.total.toNat → Outside b s.map.size.toNat 4 →
        Memory.read t.window b = Memory.read s.window b) ∧
      t =
        { s with
          agenda := rest
          busy := false
          curOp := 0#8
          phase := .idle
          resultCode := .ok
          lastOp := 0x13#8
          irqStatus := s.irqStatus ||| 0b0001#4
          mbxOut := s.cfg.codeXmitSent
          peerIrq := true
          window := t.window
          history := t.history }

/-! ### Upload -/

/-- R101: UL_STEP1's phases: the line goes down, a pending code is taken and must match, the last-chance read ignores PEND,
success sends the begin code and leaves the line down. The model's readings: POLL_LEFT is loaded in START (log 8), the port
lock does not hold the polls and the last-chance read (log 9), and the Send, UL_STATE and the end share a step (log 7). -/
def Obligations.UploadHandshakePhases : Prop :=
  ∀ (s : State),
    (s.phase = .start →
      exec .ulStep1 s = .next
        { s with notifyEn := false, ulState := .handshake, pollLeft := s.cfg.nUlHs, phase := .poll }) ∧
    (s.phase = .poll → s.pend = true → s.mbxIn = s.cfg.codeUlReady →
      exec .ulStep1 s = .next
        { s with pend := false, phase := .success, history := .takeIn s.mbxIn :: s.history }) ∧
    (s.phase = .poll → s.pend = true → s.mbxIn ≠ s.cfg.codeUlReady →
      exec .ulStep1 s = .next (finish .mismatch
        { s with
          pend := false
          notifyEn := true
          ulState := .timeoutFailed
          history := .takeIn s.mbxIn :: s.history })) ∧
    (s.phase = .poll → s.pend = false → s.pollLeft ≠ 1#32 →
      exec .ulStep1 s = .next { s with pollLeft := s.pollLeft - 1#32 }) ∧
    (s.phase = .poll → s.pend = false → s.pollLeft = 1#32 →
      exec .ulStep1 s = .next { s with pollLeft := 0#32, phase := .lastChance }) ∧
    (s.phase = .lastChance → s.mbxIn = s.cfg.codeUlReady →
      exec .ulStep1 s = .next
        { s with pend := false, phase := .success, history := .peekIn s.mbxIn :: s.history }) ∧
    (s.phase = .lastChance → s.mbxIn ≠ s.cfg.codeUlReady →
      exec .ulStep1 s = .next (finish .timeout
        { s with notifyEn := true, ulState := .timeoutFailed, history := .peekIn s.mbxIn :: s.history })) ∧
    (s.phase = .success → s.lock ≠ .continuation →
      exec .ulStep1 s = .next (finish .ok { send s.cfg.codeUlBegin s with ulState := .frameLoop, lock := .free }))

/-- R102: UL_STEP2's CHECK and POLL, and its end: once every byte is copied, the acknowledgment completes it OK, and at the
terminating tag ends the loop and re-enables the line. The model's readings: POLL_LEFT is loaded in CHECK (log 8), the port
lock does not hold the polls (log 9), and the Send, NOTIFY_EN, UL_STATE and the end share a step (log 7). -/
def Obligations.UploadFramePhases : Prop :=
  ∀ (s : State),
    (s.phase = .start → s.ulState ≠ .frameLoop → exec .ulStep2 s = .next (finish .invalid s)) ∧
    (s.phase = .start → s.ulState = .frameLoop →
      exec .ulStep2 s = .next { s with notifyEn := false, pollLeft := s.cfg.nUlFrame, phase := .poll }) ∧
    (s.phase = .poll → s.pend = true → s.mbxIn = s.cfg.codeUlFrameReady →
      exec .ulStep2 s = .next
        { s with pend := false, phase := .upload .size, history := .takeIn s.mbxIn :: s.history }) ∧
    (s.phase = .poll → s.pend = true → s.mbxIn ≠ s.cfg.codeUlFrameReady →
      exec .ulStep2 s = .next (finish .mismatch
        { s with
          pend := false
          notifyEn := true
          ulState := .timeoutFailed
          history := .takeIn s.mbxIn :: s.history })) ∧
    (s.phase = .poll → s.pend = false → s.pollLeft ≠ 1#32 →
      exec .ulStep2 s = .next { s with pollLeft := s.pollLeft - 1#32 }) ∧
    (s.phase = .poll → s.pend = false → s.pollLeft = 1#32 →
      exec .ulStep2 s = .next (finish .timeout
        { s with pollLeft := 0#32, notifyEn := true, ulState := .timeoutFailed })) ∧
    (∀ (size tag : Word) (i : Nat), s.phase = .upload (.byte size tag i) → size.toNat ≤ i →
      s.lock ≠ .continuation →
      (tag = s.cfg.tagUlEnd →
        exec .ulStep2 s = .next (finish .ok
          { send s.cfg.codeUlFrameAck s with notifyEn := true, ulState := .done, lock := .free })) ∧
      (tag ≠ s.cfg.tagUlEnd →
        exec .ulStep2 s = .next (finish .ok { send s.cfg.codeUlFrameAck s with lock := .free })))

/-- R102: a frame whose size field is too large for the buffer, for the destination or for host memory fails INVALID after
the three field reads, with the fields kept in UL_LAST and no buffer access. That UL_LAST and the validation share
the step of the third field read is the model's reading (log 7). -/
def Obligations.UploadSizeIsValidated : Prop :=
  ∀ (s : State) (size tag : Word), Invariant s → s.phase = .upload (.count size tag) →
    (s.cfg.bufCap < size.toNat ∨ s.ops.ulLen.toNat < size.toNat ∨
      2 ^ s.cfg.hostAddrW < s.ops.ulDst.toNat + size.toNat) →
    exec .ulStep2 s = .next (finish .invalid
      { s with
        lock := .free
        ulLast := { size := size, tag := tag, count := Memory.readWord s.window s.map.count.toNat }
        notifyEn := true
        ulState := .timeoutFailed
        history :=
          .memRd .engine s.map.count.toNat 4 (Memory.readWord s.window s.map.count.toNat).toNat :: s.history })

/-- R102: from a state of the invariant, READ copies exactly the frame's bytes to the destination, records its fields,
acknowledges it and completes OK; the window is not written. That the validation goes with the third read and the end with
the Send, in the count of turns, is the model's reading (log 7). -/
def Obligations.UploadFrameIsCopied : Prop :=
  ∀ (s : State) (rest : List Turn) (size tag count : Word), Invariant s → s.busy = true →
    validCommand s.cfg.toParams s.cmdw = some .ulStep2 → s.phase = .upload .size → s.lock = .free →
    size = Memory.readWord s.window s.map.size.toNat →
    tag = Memory.readWord s.window s.map.tag.toNat →
    count = Memory.readWord s.window s.map.count.toNat →
    size.toNat ≤ s.cfg.bufCap → size.toNat ≤ s.ops.ulLen.toNat →
    s.ops.ulDst.toNat + size.toNat ≤ 2 ^ s.cfg.hostAddrW →
    s.agenda = List.replicate (2 * size.toNat + 4) Turn.command ++ rest →
    ∃ t, runSteps (2 * size.toNat + 4) s = .next t ∧
      (∀ i, i < size.toNat →
        Memory.read t.hostMem (byteAddr s.ops.ulDst i) = Memory.read s.window (s.map.buf.toNat + i)) ∧
      (∀ b, (∀ i, i < size.toNat → b ≠ byteAddr s.ops.ulDst i) →
        Memory.read t.hostMem b = Memory.read s.hostMem b) ∧
      t =
        { s with
          agenda := rest
          busy := false
          curOp := 0#8
          phase := .idle
          resultCode := .ok
          lastOp := 0x21#8
          irqStatus := s.irqStatus ||| 0b0001#4
          ulLast := { size := size, tag := tag, count := count }
          mbxOut := s.cfg.codeUlFrameAck
          peerIrq := true
          notifyEn := if tag = s.cfg.tagUlEnd then true else s.notifyEn
          ulState := if tag = s.cfg.tagUlEnd then .done else s.ulState
          hostMem := t.hostMem
          history := t.history }

/-- R100: every failure exit of UL_STEP1, and of UL_STEP2 after its CHECK, re-enables the notification line and leaves
UL_STATE = TIMEOUT_FAILED. -/
def Obligations.UploadFailuresRestoreTheLine : Prop :=
  ∀ (s t : State), s.busy = true → t.busy = false → t.resultCode ≠ .ok →
    (exec .ulStep1 s = .next t → t.notifyEn = true ∧ t.ulState = .timeoutFailed) ∧
    ((s.phase = .poll ∨ ∃ p, s.phase = .upload p) → exec .ulStep2 s = .next t →
      t.notifyEn = true ∧ t.ulState = .timeoutFailed)

/-! ### Boot handshake and crash copy -/

/-- R114: BOOT_START sends the start code and waits for BOOT_COMPLETE. The model's readings: BOOT_STATE is written in the Send's
step (log 7), and so is POLL_LEFT (log 8). -/
def Obligations.BootStartPhases : Prop :=
  ∀ (s : State),
    (s.phase = .start → s.lock ≠ .continuation →
      exec .bootStart s = .next
        { send s.cfg.codeStartExec s with
          bootState := .waitBooting
          pollLeft := s.cfg.nBoot
          phase := .wait
          lock := .free }) ∧
    (s.phase = .wait → s.bootComplete = true →
      exec .bootStart s = .next (finish .ok
        { s with
          bootComplete := false
          bootState := .booted
          history := .latchConsumed .bootComplete :: s.history })) ∧
    (s.phase = .wait → s.bootComplete = false → s.pollLeft ≠ 1#32 →
      exec .bootStart s = .next { s with pollLeft := s.pollLeft - 1#32 }) ∧
    (s.phase = .wait → s.bootComplete = false → s.pollLeft = 1#32 →
      exec .bootStart s = .next (finish .timeout { s with pollLeft := 0#32, bootState := .timeoutFailed }))

/-- R115: CP_START sends the OR of the init-end code and the capability flags and completes OK at once. That the Send, BOOT_STATE
and the end share a step is the model's reading (log 7). -/
def Obligations.CpStartSendsInitEnd : Prop :=
  ∀ (s : State), s.lock ≠ .continuation →
    exec .cpStart s = .next (finish .ok
      { send (s.cfg.codeInitEnd ||| s.cfg.initCaps) s with bootState := .initEndSent, lock := .free })

/-- R116: CRASH_LOG's check, and its completion: the last byte's write (or a crash buffer of no bytes) ends it OK
(that the write and the end share a step is the model's reading, log 7; that the empty copy never waits for the port lock is its
choice, log 19). -/
def Obligations.CrashLogPhases : Prop :=
  ∀ (s : State),
    (s.phase = .start → 2 ^ s.cfg.hostAddrW < s.ops.crashDst.toNat + s.cfg.crashLen →
      exec .crashLog s = .next (finish .invalid s)) ∧
    (s.phase = .start → s.ops.crashDst.toNat + s.cfg.crashLen ≤ 2 ^ s.cfg.hostAddrW →
      exec .crashLog s = .next { s with phase := .crash (.byte 0) }) ∧
    (s.phase = .crash (.byte 0) → s.cfg.crashLen = 0 → exec .crashLog s = .next (finish .ok s)) ∧
    (∀ (i : Nat) (b : Byte), s.phase = .crash (.put i b) → i + 1 = s.cfg.crashLen → s.lock ≠ .continuation →
      s.ops.crashDst.toNat + s.cfg.crashLen ≤ 2 ^ s.cfg.hostAddrW → Memory.wf s.hostMem = true →
      ∃ t, exec .crashLog s = .next t ∧
        Memory.read t.hostMem (byteAddr s.ops.crashDst i) = b ∧
        (∀ a, a ≠ byteAddr s.ops.crashDst i → Memory.read t.hostMem a = Memory.read s.hostMem a) ∧
        t = finish .ok
          { s with
            lock := .free
            hostMem := t.hostMem
            history := .hostWr .engine (byteAddr s.ops.crashDst i) b.toNat :: s.history })

/-- R116: from a state of the invariant, CRASH_LOG copies the crash buffer to the destination and completes OK; no window
byte, mailbox or sequencer state changes. That the last write carries the end, in the count of turns, is the model's reading
(log 7). -/
def Obligations.CrashBufferIsCopied : Prop :=
  ∀ (s : State) (rest : List Turn), Invariant s → s.busy = true →
    validCommand s.cfg.toParams s.cmdw = some .crashLog → s.phase = .start → s.lock = .free →
    1 ≤ s.cfg.crashLen → s.ops.crashDst.toNat + s.cfg.crashLen ≤ 2 ^ s.cfg.hostAddrW →
    s.agenda = List.replicate (2 * s.cfg.crashLen + 1) Turn.command ++ rest →
    ∃ t, runSteps (2 * s.cfg.crashLen + 1) s = .next t ∧
      (∀ i, i < s.cfg.crashLen →
        Memory.read t.hostMem (byteAddr s.ops.crashDst i) = Memory.read s.window (s.cfg.crashRxOff.toNat + i)) ∧
      (∀ b, (∀ i, i < s.cfg.crashLen → b ≠ byteAddr s.ops.crashDst i) →
        Memory.read t.hostMem b = Memory.read s.hostMem b) ∧
      t =
        { s with
          agenda := rest
          busy := false
          curOp := 0#8
          phase := .idle
          resultCode := .ok
          lastOp := 0x40#8
          irqStatus := s.irqStatus ||| 0b0001#4
          hostMem := t.hostMem
          history := t.history }

/-! ### What the peer reads, and what the host stores -/

/-- R106, R60 (b): a peer read inside the window gives the bytes there, as a little-endian number in its event, and changes no
register and no byte. The host's store to its own memory leaves exactly its bytes (R7; that it is a turn is log 5). That either
faults where there are no bytes is the model's choice (log 12). -/
def Obligations.PeerReadsAndHostStores : Prop :=
  (∀ (s : State) (off width : Nat) (rest : List Turn), s.agenda = .peerLoad off width :: rest →
    (off + width ≤ s.cfg.shmSize →
      ∃ v, step s = .next { s with agenda := rest, history := .memRd .peer off width v :: s.history } ∧
        v < 256 ^ width ∧ ∀ i, i < width → v / 256 ^ i % 256 = (Memory.read s.window (off + i)).toNat) ∧
    (s.cfg.shmSize < off + width → step s = .fault (.peerRange off width))) ∧
  ∀ (s : State) (addr : Nat) (bytes : List Byte) (rest : List Turn), s.agenda = .hostStore addr bytes :: rest →
    Memory.wf s.hostMem = true →
    (addr + bytes.length ≤ 2 ^ s.cfg.hostAddrW →
      ∃ t, step s = .next t ∧ t = { s with agenda := rest, hostMem := t.hostMem, history := t.history } ∧
        Memory.wf t.hostMem = true ∧ Memory.readBytes t.hostMem addr bytes.length = bytes ∧
        ∀ a, Outside a addr bytes.length → Memory.read t.hostMem a = Memory.read s.hostMem a) ∧
    (2 ^ s.cfg.hostAddrW < addr + bytes.length → step s = .fault (.ownerRange addr bytes.length))
end

