-- ==== Sys2Proof/Laws/Config.lean ====
section
/-! SUPPORT. What a well-formed configuration gives (00_scope.md R8, R9), in the form the proofs use. -/

namespace Sys2Proof

/-- The conjuncts of R9. -/
theorem Config.parts (c : Config) :
    c.rangesOk = true ∧ c.fieldsOk = true ∧ c.buffersOk = true ∧ c.mapsApart = true ∧ c.crashOk = true ∧
      c.codesOk = true ∧ c.tagsOk = true := by
  have h := c.valid
  simp only [Params.wf, Bool.and_eq_true] at h
  obtain ⟨⟨⟨⟨⟨⟨h1, h2⟩, h3⟩, h4⟩, h5⟩, h6⟩, h7⟩ := h
  exact ⟨h1, h2, h3, h4, h5, h6, h7⟩

/-- R8: the sizes. -/
theorem Config.sizes (c : Config) :
    1 ≤ c.shmSize ∧ c.shmSize ≤ 2 ^ 32 ∧ 1 ≤ c.bufCap ∧ c.bufCap ≤ c.shmSize ∧ c.crashLen ≤ c.shmSize := by
  have h := c.parts.1
  simp only [Params.rangesOk, Bool.and_eq_true, decide_eq_true_eq] at h
  obtain ⟨⟨⟨⟨⟨⟨⟨⟨⟨⟨⟨⟨h1, h2⟩, h3⟩, h4⟩, h5⟩, -⟩, -⟩, -⟩, -⟩, -⟩, -⟩, -⟩, -⟩ := h
  exact ⟨h1, h2, h3, h4, h5⟩

/-- R8: no poll budget is zero. -/
theorem Config.budgets (c : Config) :
    c.nPrepare ≠ 0#32 ∧ c.nWaitNv ≠ 0#32 ∧ c.nWaitBin ≠ 0#32 ∧ c.nBoot ≠ 0#32 ∧ c.nUlHs ≠ 0#32 ∧
      c.nUlFrame ≠ 0#32 := by
  have h := c.parts.1
  simp only [Params.rangesOk, Bool.and_eq_true, decide_eq_true_eq] at h
  obtain ⟨⟨⟨⟨⟨⟨-, h1⟩, h2⟩, h3⟩, h4⟩, h5⟩, h6⟩ := h
  exact ⟨h1, h2, h3, h4, h5, h6⟩

/-- R9 (a) for the header word SET_MAGIC writes. -/
theorem Config.header (c : Config) : c.hdrMagicOff.toNat % 4 = 0 ∧ c.hdrMagicOff.toNat + 4 ≤ c.shmSize := by
  have h := c.parts.2.1
  simp only [Params.fieldsOk, Params.fieldOk, Bool.and_eq_true, decide_eq_true_eq] at h
  exact h.1.1.1.1.2

/-- R9 (d). -/
theorem Config.crash (c : Config) : c.crashRxOff.toNat + c.crashLen ≤ c.shmSize := by
  have h := c.parts.2.2.2.2.1
  simpa only [Params.crashOk, decide_eq_true_eq] using h

/-- R9 (e). -/
theorem Config.codes (c : Config) :
    c.codeDlReady ≠ c.codeFrameAck ∧ c.codeDlReady ≠ c.codeBooting ∧ c.codeFrameAck ≠ c.codeBooting ∧
      c.codeDlReady ≠ 0x9999#16 ∧ c.codeFrameAck ≠ 0x9999#16 ∧ c.codeBooting ≠ 0x9999#16 := by
  have h := c.parts.2.2.2.2.2.1
  simp only [Params.codesOk, Bool.and_eq_true, decide_eq_true_eq] at h
  obtain ⟨⟨⟨⟨⟨h1, h2⟩, h3⟩, h4⟩, h5⟩, h6⟩ := h
  exact ⟨h1, h2, h3, h4, h5, h6⟩

/-- R9 (f). -/
theorem Config.tags (c : Config) : c.tagBin ≠ c.tagNv ∧ c.tagBin ≠ 0#32 ∧ c.tagNv ≠ 0#32 := by
  have h := c.parts.2.2.2.2.2.2
  simp only [Params.tagsOk, Bool.and_eq_true, decide_eq_true_eq] at h
  exact ⟨h.1.1, h.1.2, h.2⟩

namespace Machine

/-- R9 (a) to (c) for one map of four offsets: the fields aligned and inside a window of `n` bytes, the buffer of `cap`
bytes inside it, and the four apart. -/
abbrev FrameMap.Fits (n cap : Nat) (m : FrameMap) : Prop :=
  (m.size.toNat % 4 = 0 ∧ m.tag.toNat % 4 = 0 ∧ m.count.toNat % 4 = 0) ∧
    (m.size.toNat + 4 ≤ n ∧ m.tag.toNat + 4 ≤ n ∧ m.count.toNat + 4 ≤ n ∧ m.buf.toNat + cap ≤ n) ∧
    (m.buf.toNat + cap ≤ m.size.toNat ∨ m.size.toNat + 4 ≤ m.buf.toNat) ∧
    (m.buf.toNat + cap ≤ m.tag.toNat ∨ m.tag.toNat + 4 ≤ m.buf.toNat) ∧
    (m.buf.toNat + cap ≤ m.count.toNat ∨ m.count.toNat + 4 ≤ m.buf.toNat) ∧
    (m.size.toNat + 4 ≤ m.tag.toNat ∨ m.tag.toNat + 4 ≤ m.size.toNat) ∧
    (m.size.toNat + 4 ≤ m.count.toNat ∨ m.count.toNat + 4 ≤ m.size.toNat) ∧
    (m.tag.toNat + 4 ≤ m.count.toNat ∨ m.count.toNat + 4 ≤ m.tag.toNat)

/-- R9 (c) for one map, as inequalities. -/
theorem mapApart_iff (p : Params) (buf size tag count : Nat) :
    p.mapApart buf size tag count = true ↔
      (buf + p.bufCap ≤ size ∨ size + 4 ≤ buf) ∧ (buf + p.bufCap ≤ tag ∨ tag + 4 ≤ buf) ∧
        (buf + p.bufCap ≤ count ∨ count + 4 ≤ buf) ∧ (size + 4 ≤ tag ∨ tag + 4 ≤ size) ∧
        (size + 4 ≤ count ∨ count + 4 ≤ size) ∧ (tag + 4 ≤ count ∨ count + 4 ≤ tag) := by
  simp only [Params.mapApart, rangesApart, Bool.and_eq_true, Bool.or_eq_true, decide_eq_true_eq, and_assoc]

/-- A sum of two 32-bit offsets that stays inside a window of at most 2^32 bytes does not wrap. -/
theorem offset_add {a b : Word} {n k : Nat} (hn : n ≤ 2 ^ 32) (hk : 1 ≤ k) (h : a.toNat + b.toNat + k ≤ n) :
    (a + b).toNat = a.toNat + b.toNat := by
  rw [BitVec.toNat_add, Nat.mod_eq_of_lt (by omega)]

/-- Every map a command selects is one R9 speaks of; the sums of 40_memory_map.md R84 do not wrap. -/
theorem namedMap_fits (c : Config) (d : Direction) (sel : MapSel) :
    FrameMap.Fits c.shmSize c.bufCap (namedMap c d sel) := by
  obtain ⟨-, hf, hb, ha, -⟩ := c.parts
  obtain ⟨-, hn, hc, -⟩ := c.sizes
  simp only [Params.fieldsOk, Params.fieldOk, Bool.and_eq_true, decide_eq_true_eq, and_assoc] at hf
  simp only [Params.buffersOk, Bool.and_eq_true, decide_eq_true_eq, and_assoc] at hb
  simp only [Params.mapsApart, Bool.and_eq_true, and_assoc] at ha
  obtain ⟨s1, s2, t1, t2, n1, n2, ds1, ds2, dt1, dt2, dn1, dn2, -, -, -, -, us1, us2, ut1, ut2, un1, un2⟩ := hf
  obtain ⟨b1, b2, b3⟩ := hb
  obtain ⟨a1, a2, a3⟩ := ha
  cases sel with
  | boot =>
    cases d with
    | download =>
      simp only [FrameMap.Fits, namedMap, bootMap, mapBase, BitVec.zero_add]
      exact ⟨⟨s1, t1, n1⟩, ⟨s2, t2, n2, b1⟩, (mapApart_iff _ _ _ _ _).1 a1⟩
    | upload =>
      simp only [FrameMap.Fits, namedMap, bootMap, mapBase, offset_add hn hc b2, offset_add hn (by decide) us2,
        offset_add hn (by decide) ut2, offset_add hn (by decide) un2]
      exact ⟨⟨us1, ut1, un1⟩, ⟨us2, ut2, un2, b2⟩, (mapApart_iff _ _ _ _ _).1 a2⟩
  | secondary =>
    exact ⟨⟨ds1, dt1, dn1⟩, ⟨ds2, dt2, dn2, b3⟩, (mapApart_iff _ _ _ _ _).1 a3⟩

theorem byteAddr_eq (base : Word) (i : Nat) : byteAddr base i = base.toNat + i := rfl

/-- A byte of a range that does not pass the top of host memory is inside host memory (20_memory.md R63). -/
theorem byteAddr_lt_host {c : Config} {base : Word} {i n : Nat} (h : base.toNat + n ≤ 2 ^ c.hostAddrW)
    (hi : i < n) : byteAddr base i < 2 ^ c.hostAddrW := by
  rw [byteAddr_eq]
  omega

/-- Different bytes of a range have different addresses. -/
theorem byteAddr_inj {base : Word} {i j : Nat} : byteAddr base i = byteAddr base j ↔ i = j := by
  simp only [byteAddr_eq, Nat.add_left_cancel_iff]

end Machine

end Sys2Proof
end

