-- ==== Sys2Proof/Laws/State.lean ====
section
/-! SUPPORT. For every update of the state, what each field is after it, so that no proof unfolds a record update. -/

namespace Sys2Proof.Machine

/-! ### record -/

@[simp] theorem record_cfg (e : Event) (s : State) : (record e s).cfg = s.cfg := rfl
@[simp] theorem record_busy (e : Event) (s : State) : (record e s).busy = s.busy := rfl
@[simp] theorem record_curOp (e : Event) (s : State) : (record e s).curOp = s.curOp := rfl
@[simp] theorem record_cmdw (e : Event) (s : State) : (record e s).cmdw = s.cmdw := rfl
@[simp] theorem record_phase (e : Event) (s : State) : (record e s).phase = s.phase := rfl
@[simp] theorem record_lock (e : Event) (s : State) : (record e s).lock = s.lock := rfl
@[simp] theorem record_opnd (e : Event) (s : State) : (record e s).opnd = s.opnd := rfl
@[simp] theorem record_ops (e : Event) (s : State) : (record e s).ops = s.ops := rfl
@[simp] theorem record_resultCode (e : Event) (s : State) : (record e s).resultCode = s.resultCode := rfl
@[simp] theorem record_lastOp (e : Event) (s : State) : (record e s).lastOp = s.lastOp := rfl
@[simp] theorem record_notifyEn (e : Event) (s : State) : (record e s).notifyEn = s.notifyEn := rfl
@[simp] theorem record_irqStatus (e : Event) (s : State) : (record e s).irqStatus = s.irqStatus := rfl
@[simp] theorem record_irqEnable (e : Event) (s : State) : (record e s).irqEnable = s.irqEnable := rfl
@[simp] theorem record_map (e : Event) (s : State) : (record e s).map = s.map := rfl
@[simp] theorem record_mapDir (e : Event) (s : State) : (record e s).mapDir = s.mapDir := rfl
@[simp] theorem record_mapSel (e : Event) (s : State) : (record e s).mapSel = s.mapSel := rfl
@[simp] theorem record_prog (e : Event) (s : State) : (record e s).prog = s.prog := rfl
@[simp] theorem record_cur (e : Event) (s : State) : (record e s).cur = s.cur := rfl
@[simp] theorem record_ulLast (e : Event) (s : State) : (record e s).ulLast = s.ulLast := rfl
@[simp] theorem record_dlState (e : Event) (s : State) : (record e s).dlState = s.dlState := rfl
@[simp] theorem record_ulState (e : Event) (s : State) : (record e s).ulState = s.ulState := rfl
@[simp] theorem record_bootState (e : Event) (s : State) : (record e s).bootState = s.bootState := rfl
@[simp] theorem record_copyStarted (e : Event) (s : State) : (record e s).copyStarted = s.copyStarted := rfl
@[simp] theorem record_copyComplete (e : Event) (s : State) : (record e s).copyComplete = s.copyComplete := rfl
@[simp] theorem record_bootComplete (e : Event) (s : State) : (record e s).bootComplete = s.bootComplete := rfl
@[simp] theorem record_contPending (e : Event) (s : State) : (record e s).contPending = s.contPending := rfl
@[simp] theorem record_cont (e : Event) (s : State) : (record e s).cont = s.cont := rfl
@[simp] theorem record_mbxIn (e : Event) (s : State) : (record e s).mbxIn = s.mbxIn := rfl
@[simp] theorem record_pend (e : Event) (s : State) : (record e s).pend = s.pend := rfl
@[simp] theorem record_mbxOut (e : Event) (s : State) : (record e s).mbxOut = s.mbxOut := rfl
@[simp] theorem record_peerIrq (e : Event) (s : State) : (record e s).peerIrq = s.peerIrq := rfl
@[simp] theorem record_lastUnrecog (e : Event) (s : State) : (record e s).lastUnrecog = s.lastUnrecog := rfl
@[simp] theorem record_pollLeft (e : Event) (s : State) : (record e s).pollLeft = s.pollLeft := rfl
@[simp] theorem record_window (e : Event) (s : State) : (record e s).window = s.window := rfl
@[simp] theorem record_hostMem (e : Event) (s : State) : (record e s).hostMem = s.hostMem := rfl
@[simp] theorem record_history (e : Event) (s : State) : (record e s).history = e :: s.history := rfl
@[simp] theorem record_agenda (e : Event) (s : State) : (record e s).agenda = s.agenda := rfl
@[simp] theorem record_hostRdata (e : Event) (s : State) : (record e s).hostRdata = s.hostRdata := rfl

/-! ### raiseIrq -/

@[simp] theorem raiseIrq_cfg (m : BitVec 4) (s : State) : (raiseIrq m s).cfg = s.cfg := rfl
@[simp] theorem raiseIrq_busy (m : BitVec 4) (s : State) : (raiseIrq m s).busy = s.busy := rfl
@[simp] theorem raiseIrq_curOp (m : BitVec 4) (s : State) : (raiseIrq m s).curOp = s.curOp := rfl
@[simp] theorem raiseIrq_cmdw (m : BitVec 4) (s : State) : (raiseIrq m s).cmdw = s.cmdw := rfl
@[simp] theorem raiseIrq_phase (m : BitVec 4) (s : State) : (raiseIrq m s).phase = s.phase := rfl
@[simp] theorem raiseIrq_lock (m : BitVec 4) (s : State) : (raiseIrq m s).lock = s.lock := rfl
@[simp] theorem raiseIrq_opnd (m : BitVec 4) (s : State) : (raiseIrq m s).opnd = s.opnd := rfl
@[simp] theorem raiseIrq_ops (m : BitVec 4) (s : State) : (raiseIrq m s).ops = s.ops := rfl
@[simp] theorem raiseIrq_resultCode (m : BitVec 4) (s : State) : (raiseIrq m s).resultCode = s.resultCode := rfl
@[simp] theorem raiseIrq_lastOp (m : BitVec 4) (s : State) : (raiseIrq m s).lastOp = s.lastOp := rfl
@[simp] theorem raiseIrq_notifyEn (m : BitVec 4) (s : State) : (raiseIrq m s).notifyEn = s.notifyEn := rfl
@[simp] theorem raiseIrq_irqStatus (m : BitVec 4) (s : State) : (raiseIrq m s).irqStatus = s.irqStatus ||| m := rfl
@[simp] theorem raiseIrq_irqEnable (m : BitVec 4) (s : State) : (raiseIrq m s).irqEnable = s.irqEnable := rfl
@[simp] theorem raiseIrq_map (m : BitVec 4) (s : State) : (raiseIrq m s).map = s.map := rfl
@[simp] theorem raiseIrq_mapDir (m : BitVec 4) (s : State) : (raiseIrq m s).mapDir = s.mapDir := rfl
@[simp] theorem raiseIrq_mapSel (m : BitVec 4) (s : State) : (raiseIrq m s).mapSel = s.mapSel := rfl
@[simp] theorem raiseIrq_prog (m : BitVec 4) (s : State) : (raiseIrq m s).prog = s.prog := rfl
@[simp] theorem raiseIrq_cur (m : BitVec 4) (s : State) : (raiseIrq m s).cur = s.cur := rfl
@[simp] theorem raiseIrq_ulLast (m : BitVec 4) (s : State) : (raiseIrq m s).ulLast = s.ulLast := rfl
@[simp] theorem raiseIrq_dlState (m : BitVec 4) (s : State) : (raiseIrq m s).dlState = s.dlState := rfl
@[simp] theorem raiseIrq_ulState (m : BitVec 4) (s : State) : (raiseIrq m s).ulState = s.ulState := rfl
@[simp] theorem raiseIrq_bootState (m : BitVec 4) (s : State) : (raiseIrq m s).bootState = s.bootState := rfl
@[simp] theorem raiseIrq_copyStarted (m : BitVec 4) (s : State) : (raiseIrq m s).copyStarted = s.copyStarted := rfl
@[simp] theorem raiseIrq_copyComplete (m : BitVec 4) (s : State) : (raiseIrq m s).copyComplete = s.copyComplete := rfl
@[simp] theorem raiseIrq_bootComplete (m : BitVec 4) (s : State) : (raiseIrq m s).bootComplete = s.bootComplete := rfl
@[simp] theorem raiseIrq_contPending (m : BitVec 4) (s : State) : (raiseIrq m s).contPending = s.contPending := rfl
@[simp] theorem raiseIrq_cont (m : BitVec 4) (s : State) : (raiseIrq m s).cont = s.cont := rfl
@[simp] theorem raiseIrq_mbxIn (m : BitVec 4) (s : State) : (raiseIrq m s).mbxIn = s.mbxIn := rfl
@[simp] theorem raiseIrq_pend (m : BitVec 4) (s : State) : (raiseIrq m s).pend = s.pend := rfl
@[simp] theorem raiseIrq_mbxOut (m : BitVec 4) (s : State) : (raiseIrq m s).mbxOut = s.mbxOut := rfl
@[simp] theorem raiseIrq_peerIrq (m : BitVec 4) (s : State) : (raiseIrq m s).peerIrq = s.peerIrq := rfl
@[simp] theorem raiseIrq_lastUnrecog (m : BitVec 4) (s : State) : (raiseIrq m s).lastUnrecog = s.lastUnrecog := rfl
@[simp] theorem raiseIrq_pollLeft (m : BitVec 4) (s : State) : (raiseIrq m s).pollLeft = s.pollLeft := rfl
@[simp] theorem raiseIrq_window (m : BitVec 4) (s : State) : (raiseIrq m s).window = s.window := rfl
@[simp] theorem raiseIrq_hostMem (m : BitVec 4) (s : State) : (raiseIrq m s).hostMem = s.hostMem := rfl
@[simp] theorem raiseIrq_history (m : BitVec 4) (s : State) : (raiseIrq m s).history = s.history := rfl
@[simp] theorem raiseIrq_agenda (m : BitVec 4) (s : State) : (raiseIrq m s).agenda = s.agenda := rfl
@[simp] theorem raiseIrq_hostRdata (m : BitVec 4) (s : State) : (raiseIrq m s).hostRdata = s.hostRdata := rfl

/-! ### finish -/

@[simp] theorem finish_cfg (c : ResultCode) (s : State) : (finish c s).cfg = s.cfg := rfl
@[simp] theorem finish_busy (c : ResultCode) (s : State) : (finish c s).busy = false := rfl
@[simp] theorem finish_curOp (c : ResultCode) (s : State) : (finish c s).curOp = 0#8 := rfl
@[simp] theorem finish_cmdw (c : ResultCode) (s : State) : (finish c s).cmdw = s.cmdw := rfl
@[simp] theorem finish_phase (c : ResultCode) (s : State) : (finish c s).phase = .idle := rfl
@[simp] theorem finish_lock (c : ResultCode) (s : State) : (finish c s).lock = s.lock.dropCommand := rfl
@[simp] theorem finish_opnd (c : ResultCode) (s : State) : (finish c s).opnd = s.opnd := rfl
@[simp] theorem finish_ops (c : ResultCode) (s : State) : (finish c s).ops = s.ops := rfl
@[simp] theorem finish_resultCode (c : ResultCode) (s : State) : (finish c s).resultCode = c := rfl
@[simp] theorem finish_lastOp (c : ResultCode) (s : State) : (finish c s).lastOp = opcodeField s.cmdw := rfl
@[simp] theorem finish_notifyEn (c : ResultCode) (s : State) : (finish c s).notifyEn = s.notifyEn := rfl
@[simp] theorem finish_irqStatus (c : ResultCode) (s : State) :
    (finish c s).irqStatus = s.irqStatus ||| irqCmdDone := rfl
@[simp] theorem finish_irqEnable (c : ResultCode) (s : State) : (finish c s).irqEnable = s.irqEnable := rfl
@[simp] theorem finish_map (c : ResultCode) (s : State) : (finish c s).map = s.map := rfl
@[simp] theorem finish_mapDir (c : ResultCode) (s : State) : (finish c s).mapDir = s.mapDir := rfl
@[simp] theorem finish_mapSel (c : ResultCode) (s : State) : (finish c s).mapSel = s.mapSel := rfl
@[simp] theorem finish_prog (c : ResultCode) (s : State) : (finish c s).prog = s.prog := rfl
@[simp] theorem finish_cur (c : ResultCode) (s : State) : (finish c s).cur = s.cur := rfl
@[simp] theorem finish_ulLast (c : ResultCode) (s : State) : (finish c s).ulLast = s.ulLast := rfl
@[simp] theorem finish_dlState (c : ResultCode) (s : State) : (finish c s).dlState = s.dlState := rfl
@[simp] theorem finish_ulState (c : ResultCode) (s : State) : (finish c s).ulState = s.ulState := rfl
@[simp] theorem finish_bootState (c : ResultCode) (s : State) : (finish c s).bootState = s.bootState := rfl
@[simp] theorem finish_copyStarted (c : ResultCode) (s : State) : (finish c s).copyStarted = s.copyStarted := rfl
@[simp] theorem finish_copyComplete (c : ResultCode) (s : State) : (finish c s).copyComplete = s.copyComplete := rfl
@[simp] theorem finish_bootComplete (c : ResultCode) (s : State) : (finish c s).bootComplete = s.bootComplete := rfl
@[simp] theorem finish_contPending (c : ResultCode) (s : State) : (finish c s).contPending = s.contPending := rfl
@[simp] theorem finish_cont (c : ResultCode) (s : State) : (finish c s).cont = s.cont := rfl
@[simp] theorem finish_mbxIn (c : ResultCode) (s : State) : (finish c s).mbxIn = s.mbxIn := rfl
@[simp] theorem finish_pend (c : ResultCode) (s : State) : (finish c s).pend = s.pend := rfl
@[simp] theorem finish_mbxOut (c : ResultCode) (s : State) : (finish c s).mbxOut = s.mbxOut := rfl
@[simp] theorem finish_peerIrq (c : ResultCode) (s : State) : (finish c s).peerIrq = s.peerIrq := rfl
@[simp] theorem finish_lastUnrecog (c : ResultCode) (s : State) : (finish c s).lastUnrecog = s.lastUnrecog := rfl
@[simp] theorem finish_pollLeft (c : ResultCode) (s : State) : (finish c s).pollLeft = s.pollLeft := rfl
@[simp] theorem finish_window (c : ResultCode) (s : State) : (finish c s).window = s.window := rfl
@[simp] theorem finish_hostMem (c : ResultCode) (s : State) : (finish c s).hostMem = s.hostMem := rfl
@[simp] theorem finish_history (c : ResultCode) (s : State) :
    (finish c s).history = .cmdDone (opcodeField s.cmdw) c :: s.history := rfl
@[simp] theorem finish_agenda (c : ResultCode) (s : State) : (finish c s).agenda = s.agenda := rfl
@[simp] theorem finish_hostRdata (c : ResultCode) (s : State) : (finish c s).hostRdata = s.hostRdata := rfl

/-! ### accept -/

@[simp] theorem accept_cfg (w : Word) (s : State) : (accept w s).cfg = s.cfg := rfl
@[simp] theorem accept_busy (w : Word) (s : State) : (accept w s).busy = true := rfl
@[simp] theorem accept_curOp (w : Word) (s : State) : (accept w s).curOp = opcodeField w := rfl
@[simp] theorem accept_cmdw (w : Word) (s : State) : (accept w s).cmdw = w := rfl
@[simp] theorem accept_phase (w : Word) (s : State) : (accept w s).phase = .decode := rfl
@[simp] theorem accept_lock (w : Word) (s : State) : (accept w s).lock = s.lock := rfl
@[simp] theorem accept_opnd (w : Word) (s : State) : (accept w s).opnd = s.opnd := rfl
@[simp] theorem accept_ops (w : Word) (s : State) : (accept w s).ops = s.opnd := rfl
@[simp] theorem accept_resultCode (w : Word) (s : State) : (accept w s).resultCode = s.resultCode := rfl
@[simp] theorem accept_lastOp (w : Word) (s : State) : (accept w s).lastOp = s.lastOp := rfl
@[simp] theorem accept_notifyEn (w : Word) (s : State) : (accept w s).notifyEn = s.notifyEn := rfl
@[simp] theorem accept_irqStatus (w : Word) (s : State) : (accept w s).irqStatus = s.irqStatus := rfl
@[simp] theorem accept_irqEnable (w : Word) (s : State) : (accept w s).irqEnable = s.irqEnable := rfl
@[simp] theorem accept_map (w : Word) (s : State) : (accept w s).map = s.map := rfl
@[simp] theorem accept_mapDir (w : Word) (s : State) : (accept w s).mapDir = s.mapDir := rfl
@[simp] theorem accept_mapSel (w : Word) (s : State) : (accept w s).mapSel = s.mapSel := rfl
@[simp] theorem accept_prog (w : Word) (s : State) : (accept w s).prog = s.prog := rfl
@[simp] theorem accept_cur (w : Word) (s : State) : (accept w s).cur = s.cur := rfl
@[simp] theorem accept_ulLast (w : Word) (s : State) : (accept w s).ulLast = s.ulLast := rfl
@[simp] theorem accept_dlState (w : Word) (s : State) : (accept w s).dlState = s.dlState := rfl
@[simp] theorem accept_ulState (w : Word) (s : State) : (accept w s).ulState = s.ulState := rfl
@[simp] theorem accept_bootState (w : Word) (s : State) : (accept w s).bootState = s.bootState := rfl
@[simp] theorem accept_copyStarted (w : Word) (s : State) : (accept w s).copyStarted = s.copyStarted := rfl
@[simp] theorem accept_copyComplete (w : Word) (s : State) : (accept w s).copyComplete = s.copyComplete := rfl
@[simp] theorem accept_bootComplete (w : Word) (s : State) : (accept w s).bootComplete = s.bootComplete := rfl
@[simp] theorem accept_contPending (w : Word) (s : State) : (accept w s).contPending = s.contPending := rfl
@[simp] theorem accept_cont (w : Word) (s : State) : (accept w s).cont = s.cont := rfl
@[simp] theorem accept_mbxIn (w : Word) (s : State) : (accept w s).mbxIn = s.mbxIn := rfl
@[simp] theorem accept_pend (w : Word) (s : State) : (accept w s).pend = s.pend := rfl
@[simp] theorem accept_mbxOut (w : Word) (s : State) : (accept w s).mbxOut = s.mbxOut := rfl
@[simp] theorem accept_peerIrq (w : Word) (s : State) : (accept w s).peerIrq = s.peerIrq := rfl
@[simp] theorem accept_lastUnrecog (w : Word) (s : State) : (accept w s).lastUnrecog = s.lastUnrecog := rfl
@[simp] theorem accept_pollLeft (w : Word) (s : State) : (accept w s).pollLeft = s.pollLeft := rfl
@[simp] theorem accept_window (w : Word) (s : State) : (accept w s).window = s.window := rfl
@[simp] theorem accept_hostMem (w : Word) (s : State) : (accept w s).hostMem = s.hostMem := rfl
@[simp] theorem accept_history (w : Word) (s : State) :
    (accept w s).history = .cmdStart (opcodeField w) :: s.history := rfl
@[simp] theorem accept_agenda (w : Word) (s : State) : (accept w s).agenda = s.agenda := rfl
@[simp] theorem accept_hostRdata (w : Word) (s : State) : (accept w s).hostRdata = s.hostRdata := rfl

/-! ### takeIn -/

@[simp] theorem takeIn_snd_cfg (s : State) : (takeIn s).2.cfg = s.cfg := rfl
@[simp] theorem takeIn_snd_busy (s : State) : (takeIn s).2.busy = s.busy := rfl
@[simp] theorem takeIn_snd_curOp (s : State) : (takeIn s).2.curOp = s.curOp := rfl
@[simp] theorem takeIn_snd_cmdw (s : State) : (takeIn s).2.cmdw = s.cmdw := rfl
@[simp] theorem takeIn_snd_phase (s : State) : (takeIn s).2.phase = s.phase := rfl
@[simp] theorem takeIn_snd_lock (s : State) : (takeIn s).2.lock = s.lock := rfl
@[simp] theorem takeIn_snd_opnd (s : State) : (takeIn s).2.opnd = s.opnd := rfl
@[simp] theorem takeIn_snd_ops (s : State) : (takeIn s).2.ops = s.ops := rfl
@[simp] theorem takeIn_snd_resultCode (s : State) : (takeIn s).2.resultCode = s.resultCode := rfl
@[simp] theorem takeIn_snd_lastOp (s : State) : (takeIn s).2.lastOp = s.lastOp := rfl
@[simp] theorem takeIn_snd_notifyEn (s : State) : (takeIn s).2.notifyEn = s.notifyEn := rfl
@[simp] theorem takeIn_snd_irqStatus (s : State) : (takeIn s).2.irqStatus = s.irqStatus := rfl
@[simp] theorem takeIn_snd_irqEnable (s : State) : (takeIn s).2.irqEnable = s.irqEnable := rfl
@[simp] theorem takeIn_snd_map (s : State) : (takeIn s).2.map = s.map := rfl
@[simp] theorem takeIn_snd_mapDir (s : State) : (takeIn s).2.mapDir = s.mapDir := rfl
@[simp] theorem takeIn_snd_mapSel (s : State) : (takeIn s).2.mapSel = s.mapSel := rfl
@[simp] theorem takeIn_snd_prog (s : State) : (takeIn s).2.prog = s.prog := rfl
@[simp] theorem takeIn_snd_cur (s : State) : (takeIn s).2.cur = s.cur := rfl
@[simp] theorem takeIn_snd_ulLast (s : State) : (takeIn s).2.ulLast = s.ulLast := rfl
@[simp] theorem takeIn_snd_dlState (s : State) : (takeIn s).2.dlState = s.dlState := rfl
@[simp] theorem takeIn_snd_ulState (s : State) : (takeIn s).2.ulState = s.ulState := rfl
@[simp] theorem takeIn_snd_bootState (s : State) : (takeIn s).2.bootState = s.bootState := rfl
@[simp] theorem takeIn_snd_copyStarted (s : State) : (takeIn s).2.copyStarted = s.copyStarted := rfl
@[simp] theorem takeIn_snd_copyComplete (s : State) : (takeIn s).2.copyComplete = s.copyComplete := rfl
@[simp] theorem takeIn_snd_bootComplete (s : State) : (takeIn s).2.bootComplete = s.bootComplete := rfl
@[simp] theorem takeIn_snd_contPending (s : State) : (takeIn s).2.contPending = s.contPending := rfl
@[simp] theorem takeIn_snd_cont (s : State) : (takeIn s).2.cont = s.cont := rfl
@[simp] theorem takeIn_snd_mbxIn (s : State) : (takeIn s).2.mbxIn = s.mbxIn := rfl
@[simp] theorem takeIn_snd_pend (s : State) : (takeIn s).2.pend = false := rfl
@[simp] theorem takeIn_snd_mbxOut (s : State) : (takeIn s).2.mbxOut = s.mbxOut := rfl
@[simp] theorem takeIn_snd_peerIrq (s : State) : (takeIn s).2.peerIrq = s.peerIrq := rfl
@[simp] theorem takeIn_snd_lastUnrecog (s : State) : (takeIn s).2.lastUnrecog = s.lastUnrecog := rfl
@[simp] theorem takeIn_snd_pollLeft (s : State) : (takeIn s).2.pollLeft = s.pollLeft := rfl
@[simp] theorem takeIn_snd_window (s : State) : (takeIn s).2.window = s.window := rfl
@[simp] theorem takeIn_snd_hostMem (s : State) : (takeIn s).2.hostMem = s.hostMem := rfl
@[simp] theorem takeIn_snd_history (s : State) : (takeIn s).2.history = .takeIn s.mbxIn :: s.history := rfl
@[simp] theorem takeIn_snd_agenda (s : State) : (takeIn s).2.agenda = s.agenda := rfl
@[simp] theorem takeIn_snd_hostRdata (s : State) : (takeIn s).2.hostRdata = s.hostRdata := rfl

/-! ### peekIn -/

@[simp] theorem peekIn_snd_cfg (s : State) : (peekIn s).2.cfg = s.cfg := rfl
@[simp] theorem peekIn_snd_busy (s : State) : (peekIn s).2.busy = s.busy := rfl
@[simp] theorem peekIn_snd_curOp (s : State) : (peekIn s).2.curOp = s.curOp := rfl
@[simp] theorem peekIn_snd_cmdw (s : State) : (peekIn s).2.cmdw = s.cmdw := rfl
@[simp] theorem peekIn_snd_phase (s : State) : (peekIn s).2.phase = s.phase := rfl
@[simp] theorem peekIn_snd_lock (s : State) : (peekIn s).2.lock = s.lock := rfl
@[simp] theorem peekIn_snd_opnd (s : State) : (peekIn s).2.opnd = s.opnd := rfl
@[simp] theorem peekIn_snd_ops (s : State) : (peekIn s).2.ops = s.ops := rfl
@[simp] theorem peekIn_snd_resultCode (s : State) : (peekIn s).2.resultCode = s.resultCode := rfl
@[simp] theorem peekIn_snd_lastOp (s : State) : (peekIn s).2.lastOp = s.lastOp := rfl
@[simp] theorem peekIn_snd_notifyEn (s : State) : (peekIn s).2.notifyEn = s.notifyEn := rfl
@[simp] theorem peekIn_snd_irqStatus (s : State) : (peekIn s).2.irqStatus = s.irqStatus := rfl
@[simp] theorem peekIn_snd_irqEnable (s : State) : (peekIn s).2.irqEnable = s.irqEnable := rfl
@[simp] theorem peekIn_snd_map (s : State) : (peekIn s).2.map = s.map := rfl
@[simp] theorem peekIn_snd_mapDir (s : State) : (peekIn s).2.mapDir = s.mapDir := rfl
@[simp] theorem peekIn_snd_mapSel (s : State) : (peekIn s).2.mapSel = s.mapSel := rfl
@[simp] theorem peekIn_snd_prog (s : State) : (peekIn s).2.prog = s.prog := rfl
@[simp] theorem peekIn_snd_cur (s : State) : (peekIn s).2.cur = s.cur := rfl
@[simp] theorem peekIn_snd_ulLast (s : State) : (peekIn s).2.ulLast = s.ulLast := rfl
@[simp] theorem peekIn_snd_dlState (s : State) : (peekIn s).2.dlState = s.dlState := rfl
@[simp] theorem peekIn_snd_ulState (s : State) : (peekIn s).2.ulState = s.ulState := rfl
@[simp] theorem peekIn_snd_bootState (s : State) : (peekIn s).2.bootState = s.bootState := rfl
@[simp] theorem peekIn_snd_copyStarted (s : State) : (peekIn s).2.copyStarted = s.copyStarted := rfl
@[simp] theorem peekIn_snd_copyComplete (s : State) : (peekIn s).2.copyComplete = s.copyComplete := rfl
@[simp] theorem peekIn_snd_bootComplete (s : State) : (peekIn s).2.bootComplete = s.bootComplete := rfl
@[simp] theorem peekIn_snd_contPending (s : State) : (peekIn s).2.contPending = s.contPending := rfl
@[simp] theorem peekIn_snd_cont (s : State) : (peekIn s).2.cont = s.cont := rfl
@[simp] theorem peekIn_snd_mbxIn (s : State) : (peekIn s).2.mbxIn = s.mbxIn := rfl
@[simp] theorem peekIn_snd_pend (s : State) : (peekIn s).2.pend = s.pend := rfl
@[simp] theorem peekIn_snd_mbxOut (s : State) : (peekIn s).2.mbxOut = s.mbxOut := rfl
@[simp] theorem peekIn_snd_peerIrq (s : State) : (peekIn s).2.peerIrq = s.peerIrq := rfl
@[simp] theorem peekIn_snd_lastUnrecog (s : State) : (peekIn s).2.lastUnrecog = s.lastUnrecog := rfl
@[simp] theorem peekIn_snd_pollLeft (s : State) : (peekIn s).2.pollLeft = s.pollLeft := rfl
@[simp] theorem peekIn_snd_window (s : State) : (peekIn s).2.window = s.window := rfl
@[simp] theorem peekIn_snd_hostMem (s : State) : (peekIn s).2.hostMem = s.hostMem := rfl
@[simp] theorem peekIn_snd_history (s : State) : (peekIn s).2.history = .peekIn s.mbxIn :: s.history := rfl
@[simp] theorem peekIn_snd_agenda (s : State) : (peekIn s).2.agenda = s.agenda := rfl
@[simp] theorem peekIn_snd_hostRdata (s : State) : (peekIn s).2.hostRdata = s.hostRdata := rfl

/-! ### releaseCommand -/

@[simp] theorem releaseCommand_cfg (s : State) : (releaseCommand s).cfg = s.cfg := rfl
@[simp] theorem releaseCommand_busy (s : State) : (releaseCommand s).busy = s.busy := rfl
@[simp] theorem releaseCommand_curOp (s : State) : (releaseCommand s).curOp = s.curOp := rfl
@[simp] theorem releaseCommand_cmdw (s : State) : (releaseCommand s).cmdw = s.cmdw := rfl
@[simp] theorem releaseCommand_phase (s : State) : (releaseCommand s).phase = s.phase := rfl
@[simp] theorem releaseCommand_lock (s : State) : (releaseCommand s).lock = s.lock.dropCommand := rfl
@[simp] theorem releaseCommand_opnd (s : State) : (releaseCommand s).opnd = s.opnd := rfl
@[simp] theorem releaseCommand_ops (s : State) : (releaseCommand s).ops = s.ops := rfl
@[simp] theorem releaseCommand_resultCode (s : State) : (releaseCommand s).resultCode = s.resultCode := rfl
@[simp] theorem releaseCommand_lastOp (s : State) : (releaseCommand s).lastOp = s.lastOp := rfl
@[simp] theorem releaseCommand_notifyEn (s : State) : (releaseCommand s).notifyEn = s.notifyEn := rfl
@[simp] theorem releaseCommand_irqStatus (s : State) : (releaseCommand s).irqStatus = s.irqStatus := rfl
@[simp] theorem releaseCommand_irqEnable (s : State) : (releaseCommand s).irqEnable = s.irqEnable := rfl
@[simp] theorem releaseCommand_map (s : State) : (releaseCommand s).map = s.map := rfl
@[simp] theorem releaseCommand_mapDir (s : State) : (releaseCommand s).mapDir = s.mapDir := rfl
@[simp] theorem releaseCommand_mapSel (s : State) : (releaseCommand s).mapSel = s.mapSel := rfl
@[simp] theorem releaseCommand_prog (s : State) : (releaseCommand s).prog = s.prog := rfl
@[simp] theorem releaseCommand_cur (s : State) : (releaseCommand s).cur = s.cur := rfl
@[simp] theorem releaseCommand_ulLast (s : State) : (releaseCommand s).ulLast = s.ulLast := rfl
@[simp] theorem releaseCommand_dlState (s : State) : (releaseCommand s).dlState = s.dlState := rfl
@[simp] theorem releaseCommand_ulState (s : State) : (releaseCommand s).ulState = s.ulState := rfl
@[simp] theorem releaseCommand_bootState (s : State) : (releaseCommand s).bootState = s.bootState := rfl
@[simp] theorem releaseCommand_copyStarted (s : State) : (releaseCommand s).copyStarted = s.copyStarted := rfl
@[simp] theorem releaseCommand_copyComplete (s : State) : (releaseCommand s).copyComplete = s.copyComplete := rfl
@[simp] theorem releaseCommand_bootComplete (s : State) : (releaseCommand s).bootComplete = s.bootComplete := rfl
@[simp] theorem releaseCommand_contPending (s : State) : (releaseCommand s).contPending = s.contPending := rfl
@[simp] theorem releaseCommand_cont (s : State) : (releaseCommand s).cont = s.cont := rfl
@[simp] theorem releaseCommand_mbxIn (s : State) : (releaseCommand s).mbxIn = s.mbxIn := rfl
@[simp] theorem releaseCommand_pend (s : State) : (releaseCommand s).pend = s.pend := rfl
@[simp] theorem releaseCommand_mbxOut (s : State) : (releaseCommand s).mbxOut = s.mbxOut := rfl
@[simp] theorem releaseCommand_peerIrq (s : State) : (releaseCommand s).peerIrq = s.peerIrq := rfl
@[simp] theorem releaseCommand_lastUnrecog (s : State) : (releaseCommand s).lastUnrecog = s.lastUnrecog := rfl
@[simp] theorem releaseCommand_pollLeft (s : State) : (releaseCommand s).pollLeft = s.pollLeft := rfl
@[simp] theorem releaseCommand_window (s : State) : (releaseCommand s).window = s.window := rfl
@[simp] theorem releaseCommand_hostMem (s : State) : (releaseCommand s).hostMem = s.hostMem := rfl
@[simp] theorem releaseCommand_history (s : State) : (releaseCommand s).history = s.history := rfl
@[simp] theorem releaseCommand_agenda (s : State) : (releaseCommand s).agenda = s.agenda := rfl
@[simp] theorem releaseCommand_hostRdata (s : State) : (releaseCommand s).hostRdata = s.hostRdata := rfl

/-! ### startPoll -/

@[simp] theorem startPoll_cfg (n : Word) (ph : Phase) (s : State) : (startPoll n ph s).cfg = s.cfg := rfl
@[simp] theorem startPoll_busy (n : Word) (ph : Phase) (s : State) : (startPoll n ph s).busy = s.busy := rfl
@[simp] theorem startPoll_curOp (n : Word) (ph : Phase) (s : State) : (startPoll n ph s).curOp = s.curOp := rfl
@[simp] theorem startPoll_cmdw (n : Word) (ph : Phase) (s : State) : (startPoll n ph s).cmdw = s.cmdw := rfl
@[simp] theorem startPoll_phase (n : Word) (ph : Phase) (s : State) : (startPoll n ph s).phase = ph := rfl
@[simp] theorem startPoll_lock (n : Word) (ph : Phase) (s : State) : (startPoll n ph s).lock = s.lock := rfl
@[simp] theorem startPoll_opnd (n : Word) (ph : Phase) (s : State) : (startPoll n ph s).opnd = s.opnd := rfl
@[simp] theorem startPoll_ops (n : Word) (ph : Phase) (s : State) : (startPoll n ph s).ops = s.ops := rfl
@[simp] theorem startPoll_resultCode (n : Word) (ph : Phase) (s : State) :
    (startPoll n ph s).resultCode = s.resultCode := rfl
@[simp] theorem startPoll_lastOp (n : Word) (ph : Phase) (s : State) : (startPoll n ph s).lastOp = s.lastOp := rfl
@[simp] theorem startPoll_notifyEn (n : Word) (ph : Phase) (s : State) : (startPoll n ph s).notifyEn = s.notifyEn := rfl
@[simp] theorem startPoll_irqStatus (n : Word) (ph : Phase) (s : State) :
    (startPoll n ph s).irqStatus = s.irqStatus := rfl
@[simp] theorem startPoll_irqEnable (n : Word) (ph : Phase) (s : State) :
    (startPoll n ph s).irqEnable = s.irqEnable := rfl
@[simp] theorem startPoll_map (n : Word) (ph : Phase) (s : State) : (startPoll n ph s).map = s.map := rfl
@[simp] theorem startPoll_mapDir (n : Word) (ph : Phase) (s : State) : (startPoll n ph s).mapDir = s.mapDir := rfl
@[simp] theorem startPoll_mapSel (n : Word) (ph : Phase) (s : State) : (startPoll n ph s).mapSel = s.mapSel := rfl
@[simp] theorem startPoll_prog (n : Word) (ph : Phase) (s : State) : (startPoll n ph s).prog = s.prog := rfl
@[simp] theorem startPoll_cur (n : Word) (ph : Phase) (s : State) : (startPoll n ph s).cur = s.cur := rfl
@[simp] theorem startPoll_ulLast (n : Word) (ph : Phase) (s : State) : (startPoll n ph s).ulLast = s.ulLast := rfl
@[simp] theorem startPoll_dlState (n : Word) (ph : Phase) (s : State) : (startPoll n ph s).dlState = s.dlState := rfl
@[simp] theorem startPoll_ulState (n : Word) (ph : Phase) (s : State) : (startPoll n ph s).ulState = s.ulState := rfl
@[simp] theorem startPoll_bootState (n : Word) (ph : Phase) (s : State) :
    (startPoll n ph s).bootState = s.bootState := rfl
@[simp] theorem startPoll_copyStarted (n : Word) (ph : Phase) (s : State) :
    (startPoll n ph s).copyStarted = s.copyStarted := rfl
@[simp] theorem startPoll_copyComplete (n : Word) (ph : Phase) (s : State) :
    (startPoll n ph s).copyComplete = s.copyComplete := rfl
@[simp] theorem startPoll_bootComplete (n : Word) (ph : Phase) (s : State) :
    (startPoll n ph s).bootComplete = s.bootComplete := rfl
@[simp] theorem startPoll_contPending (n : Word) (ph : Phase) (s : State) :
    (startPoll n ph s).contPending = s.contPending := rfl
@[simp] theorem startPoll_cont (n : Word) (ph : Phase) (s : State) : (startPoll n ph s).cont = s.cont := rfl
@[simp] theorem startPoll_mbxIn (n : Word) (ph : Phase) (s : State) : (startPoll n ph s).mbxIn = s.mbxIn := rfl
@[simp] theorem startPoll_pend (n : Word) (ph : Phase) (s : State) : (startPoll n ph s).pend = s.pend := rfl
@[simp] theorem startPoll_mbxOut (n : Word) (ph : Phase) (s : State) : (startPoll n ph s).mbxOut = s.mbxOut := rfl
@[simp] theorem startPoll_peerIrq (n : Word) (ph : Phase) (s : State) : (startPoll n ph s).peerIrq = s.peerIrq := rfl
@[simp] theorem startPoll_lastUnrecog (n : Word) (ph : Phase) (s : State) :
    (startPoll n ph s).lastUnrecog = s.lastUnrecog := rfl
@[simp] theorem startPoll_pollLeft (n : Word) (ph : Phase) (s : State) : (startPoll n ph s).pollLeft = n := rfl
@[simp] theorem startPoll_window (n : Word) (ph : Phase) (s : State) : (startPoll n ph s).window = s.window := rfl
@[simp] theorem startPoll_hostMem (n : Word) (ph : Phase) (s : State) : (startPoll n ph s).hostMem = s.hostMem := rfl
@[simp] theorem startPoll_history (n : Word) (ph : Phase) (s : State) : (startPoll n ph s).history = s.history := rfl
@[simp] theorem startPoll_agenda (n : Word) (ph : Phase) (s : State) : (startPoll n ph s).agenda = s.agenda := rfl
@[simp] theorem startPoll_hostRdata (n : Word) (ph : Phase) (s : State) :
    (startPoll n ph s).hostRdata = s.hostRdata := rfl

/-! ### selectMap -/

@[simp] theorem selectMap_cfg (m : FrameMap) (d : Direction) (sel : MapSel) (s : State) :
    (selectMap m d sel s).cfg = s.cfg := rfl
@[simp] theorem selectMap_busy (m : FrameMap) (d : Direction) (sel : MapSel) (s : State) :
    (selectMap m d sel s).busy = s.busy := rfl
@[simp] theorem selectMap_curOp (m : FrameMap) (d : Direction) (sel : MapSel) (s : State) :
    (selectMap m d sel s).curOp = s.curOp := rfl
@[simp] theorem selectMap_cmdw (m : FrameMap) (d : Direction) (sel : MapSel) (s : State) :
    (selectMap m d sel s).cmdw = s.cmdw := rfl
@[simp] theorem selectMap_phase (m : FrameMap) (d : Direction) (sel : MapSel) (s : State) :
    (selectMap m d sel s).phase = s.phase := rfl
@[simp] theorem selectMap_lock (m : FrameMap) (d : Direction) (sel : MapSel) (s : State) :
    (selectMap m d sel s).lock = s.lock := rfl
@[simp] theorem selectMap_opnd (m : FrameMap) (d : Direction) (sel : MapSel) (s : State) :
    (selectMap m d sel s).opnd = s.opnd := rfl
@[simp] theorem selectMap_ops (m : FrameMap) (d : Direction) (sel : MapSel) (s : State) :
    (selectMap m d sel s).ops = s.ops := rfl
@[simp] theorem selectMap_resultCode (m : FrameMap) (d : Direction) (sel : MapSel) (s : State) :
    (selectMap m d sel s).resultCode = s.resultCode := rfl
@[simp] theorem selectMap_lastOp (m : FrameMap) (d : Direction) (sel : MapSel) (s : State) :
    (selectMap m d sel s).lastOp = s.lastOp := rfl
@[simp] theorem selectMap_notifyEn (m : FrameMap) (d : Direction) (sel : MapSel) (s : State) :
    (selectMap m d sel s).notifyEn = s.notifyEn := rfl
@[simp] theorem selectMap_irqStatus (m : FrameMap) (d : Direction) (sel : MapSel) (s : State) :
    (selectMap m d sel s).irqStatus = s.irqStatus := rfl
@[simp] theorem selectMap_irqEnable (m : FrameMap) (d : Direction) (sel : MapSel) (s : State) :
    (selectMap m d sel s).irqEnable = s.irqEnable := rfl
@[simp] theorem selectMap_map (m : FrameMap) (d : Direction) (sel : MapSel) (s : State) :
    (selectMap m d sel s).map = m := rfl
@[simp] theorem selectMap_mapDir (m : FrameMap) (d : Direction) (sel : MapSel) (s : State) :
    (selectMap m d sel s).mapDir = d := rfl
@[simp] theorem selectMap_mapSel (m : FrameMap) (d : Direction) (sel : MapSel) (s : State) :
    (selectMap m d sel s).mapSel = sel := rfl
@[simp] theorem selectMap_prog (m : FrameMap) (d : Direction) (sel : MapSel) (s : State) :
    (selectMap m d sel s).prog = s.prog := rfl
@[simp] theorem selectMap_cur (m : FrameMap) (d : Direction) (sel : MapSel) (s : State) :
    (selectMap m d sel s).cur = s.cur := rfl
@[simp] theorem selectMap_ulLast (m : FrameMap) (d : Direction) (sel : MapSel) (s : State) :
    (selectMap m d sel s).ulLast = s.ulLast := rfl
@[simp] theorem selectMap_dlState (m : FrameMap) (d : Direction) (sel : MapSel) (s : State) :
    (selectMap m d sel s).dlState = s.dlState := rfl
@[simp] theorem selectMap_ulState (m : FrameMap) (d : Direction) (sel : MapSel) (s : State) :
    (selectMap m d sel s).ulState = s.ulState := rfl
@[simp] theorem selectMap_bootState (m : FrameMap) (d : Direction) (sel : MapSel) (s : State) :
    (selectMap m d sel s).bootState = s.bootState := rfl
@[simp] theorem selectMap_copyStarted (m : FrameMap) (d : Direction) (sel : MapSel) (s : State) :
    (selectMap m d sel s).copyStarted = s.copyStarted := rfl
@[simp] theorem selectMap_copyComplete (m : FrameMap) (d : Direction) (sel : MapSel) (s : State) :
    (selectMap m d sel s).copyComplete = s.copyComplete := rfl
@[simp] theorem selectMap_bootComplete (m : FrameMap) (d : Direction) (sel : MapSel) (s : State) :
    (selectMap m d sel s).bootComplete = s.bootComplete := rfl
@[simp] theorem selectMap_contPending (m : FrameMap) (d : Direction) (sel : MapSel) (s : State) :
    (selectMap m d sel s).contPending = s.contPending := rfl
@[simp] theorem selectMap_cont (m : FrameMap) (d : Direction) (sel : MapSel) (s : State) :
    (selectMap m d sel s).cont = s.cont := rfl
@[simp] theorem selectMap_mbxIn (m : FrameMap) (d : Direction) (sel : MapSel) (s : State) :
    (selectMap m d sel s).mbxIn = s.mbxIn := rfl
@[simp] theorem selectMap_pend (m : FrameMap) (d : Direction) (sel : MapSel) (s : State) :
    (selectMap m d sel s).pend = s.pend := rfl
@[simp] theorem selectMap_mbxOut (m : FrameMap) (d : Direction) (sel : MapSel) (s : State) :
    (selectMap m d sel s).mbxOut = s.mbxOut := rfl
@[simp] theorem selectMap_peerIrq (m : FrameMap) (d : Direction) (sel : MapSel) (s : State) :
    (selectMap m d sel s).peerIrq = s.peerIrq := rfl
@[simp] theorem selectMap_lastUnrecog (m : FrameMap) (d : Direction) (sel : MapSel) (s : State) :
    (selectMap m d sel s).lastUnrecog = s.lastUnrecog := rfl
@[simp] theorem selectMap_pollLeft (m : FrameMap) (d : Direction) (sel : MapSel) (s : State) :
    (selectMap m d sel s).pollLeft = s.pollLeft := rfl
@[simp] theorem selectMap_window (m : FrameMap) (d : Direction) (sel : MapSel) (s : State) :
    (selectMap m d sel s).window = s.window := rfl
@[simp] theorem selectMap_hostMem (m : FrameMap) (d : Direction) (sel : MapSel) (s : State) :
    (selectMap m d sel s).hostMem = s.hostMem := rfl
@[simp] theorem selectMap_history (m : FrameMap) (d : Direction) (sel : MapSel) (s : State) :
    (selectMap m d sel s).history = s.history := rfl
@[simp] theorem selectMap_agenda (m : FrameMap) (d : Direction) (sel : MapSel) (s : State) :
    (selectMap m d sel s).agenda = s.agenda := rfl
@[simp] theorem selectMap_hostRdata (m : FrameMap) (d : Direction) (sel : MapSel) (s : State) :
    (selectMap m d sel s).hostRdata = s.hostRdata := rfl

/-! ### prepareStart -/

@[simp] theorem prepareStart_cfg (s : State) : (prepareStart s).cfg = s.cfg := rfl
@[simp] theorem prepareStart_busy (s : State) : (prepareStart s).busy = s.busy := rfl
@[simp] theorem prepareStart_curOp (s : State) : (prepareStart s).curOp = s.curOp := rfl
@[simp] theorem prepareStart_cmdw (s : State) : (prepareStart s).cmdw = s.cmdw := rfl
@[simp] theorem prepareStart_phase (s : State) : (prepareStart s).phase = s.phase := rfl
@[simp] theorem prepareStart_lock (s : State) : (prepareStart s).lock = s.lock := rfl
@[simp] theorem prepareStart_opnd (s : State) : (prepareStart s).opnd = s.opnd := rfl
@[simp] theorem prepareStart_ops (s : State) : (prepareStart s).ops = s.ops := rfl
@[simp] theorem prepareStart_resultCode (s : State) : (prepareStart s).resultCode = s.resultCode := rfl
@[simp] theorem prepareStart_lastOp (s : State) : (prepareStart s).lastOp = s.lastOp := rfl
@[simp] theorem prepareStart_notifyEn (s : State) : (prepareStart s).notifyEn = s.notifyEn := rfl
@[simp] theorem prepareStart_irqStatus (s : State) : (prepareStart s).irqStatus = s.irqStatus := rfl
@[simp] theorem prepareStart_irqEnable (s : State) : (prepareStart s).irqEnable = s.irqEnable := rfl
@[simp] theorem prepareStart_map (s : State) : (prepareStart s).map = s.map := rfl
@[simp] theorem prepareStart_mapDir (s : State) : (prepareStart s).mapDir = s.mapDir := rfl
@[simp] theorem prepareStart_mapSel (s : State) : (prepareStart s).mapSel = s.mapSel := rfl
@[simp] theorem prepareStart_prog (s : State) : (prepareStart s).prog = ⟨0#32, 0#32, 0#32⟩ := rfl
@[simp] theorem prepareStart_cur (s : State) : (prepareStart s).cur = ⟨0#32, 0#32, 0#32, 0#32⟩ := rfl
@[simp] theorem prepareStart_ulLast (s : State) : (prepareStart s).ulLast = s.ulLast := rfl
@[simp] theorem prepareStart_dlState (s : State) : (prepareStart s).dlState = .awaitingPeerReady := rfl
@[simp] theorem prepareStart_ulState (s : State) : (prepareStart s).ulState = s.ulState := rfl
@[simp] theorem prepareStart_bootState (s : State) : (prepareStart s).bootState = s.bootState := rfl
@[simp] theorem prepareStart_copyStarted (s : State) : (prepareStart s).copyStarted = s.copyStarted := rfl
@[simp] theorem prepareStart_copyComplete (s : State) : (prepareStart s).copyComplete = s.copyComplete := rfl
@[simp] theorem prepareStart_bootComplete (s : State) : (prepareStart s).bootComplete = s.bootComplete := rfl
@[simp] theorem prepareStart_contPending (s : State) : (prepareStart s).contPending = false := rfl
@[simp] theorem prepareStart_cont (s : State) : (prepareStart s).cont = s.cont := rfl
@[simp] theorem prepareStart_mbxIn (s : State) : (prepareStart s).mbxIn = s.mbxIn := rfl
@[simp] theorem prepareStart_pend (s : State) : (prepareStart s).pend = s.pend := rfl
@[simp] theorem prepareStart_mbxOut (s : State) : (prepareStart s).mbxOut = s.mbxOut := rfl
@[simp] theorem prepareStart_peerIrq (s : State) : (prepareStart s).peerIrq = s.peerIrq := rfl
@[simp] theorem prepareStart_lastUnrecog (s : State) : (prepareStart s).lastUnrecog = s.lastUnrecog := rfl
@[simp] theorem prepareStart_pollLeft (s : State) : (prepareStart s).pollLeft = s.pollLeft := rfl
@[simp] theorem prepareStart_window (s : State) : (prepareStart s).window = s.window := rfl
@[simp] theorem prepareStart_hostMem (s : State) : (prepareStart s).hostMem = s.hostMem := rfl
@[simp] theorem prepareStart_history (s : State) : (prepareStart s).history = s.history := rfl
@[simp] theorem prepareStart_agenda (s : State) : (prepareStart s).agenda = s.agenda := rfl
@[simp] theorem prepareStart_hostRdata (s : State) : (prepareStart s).hostRdata = s.hostRdata := rfl

/-! ### loadSetup -/

@[simp] theorem loadSetup_cfg (k : LoadKind) (s : State) : (loadSetup k s).cfg = s.cfg := rfl
@[simp] theorem loadSetup_busy (k : LoadKind) (s : State) : (loadSetup k s).busy = s.busy := rfl
@[simp] theorem loadSetup_curOp (k : LoadKind) (s : State) : (loadSetup k s).curOp = s.curOp := rfl
@[simp] theorem loadSetup_cmdw (k : LoadKind) (s : State) : (loadSetup k s).cmdw = s.cmdw := rfl
@[simp] theorem loadSetup_phase (k : LoadKind) (s : State) : (loadSetup k s).phase = s.phase := rfl
@[simp] theorem loadSetup_lock (k : LoadKind) (s : State) : (loadSetup k s).lock = s.lock := rfl
@[simp] theorem loadSetup_opnd (k : LoadKind) (s : State) : (loadSetup k s).opnd = s.opnd := rfl
@[simp] theorem loadSetup_ops (k : LoadKind) (s : State) : (loadSetup k s).ops = s.ops := rfl
@[simp] theorem loadSetup_resultCode (k : LoadKind) (s : State) : (loadSetup k s).resultCode = s.resultCode := rfl
@[simp] theorem loadSetup_lastOp (k : LoadKind) (s : State) : (loadSetup k s).lastOp = s.lastOp := rfl
@[simp] theorem loadSetup_notifyEn (k : LoadKind) (s : State) : (loadSetup k s).notifyEn = s.notifyEn := rfl
@[simp] theorem loadSetup_irqStatus (k : LoadKind) (s : State) : (loadSetup k s).irqStatus = s.irqStatus := rfl
@[simp] theorem loadSetup_irqEnable (k : LoadKind) (s : State) : (loadSetup k s).irqEnable = s.irqEnable := rfl
@[simp] theorem loadSetup_map (k : LoadKind) (s : State) : (loadSetup k s).map = s.map := rfl
@[simp] theorem loadSetup_mapDir (k : LoadKind) (s : State) : (loadSetup k s).mapDir = s.mapDir := rfl
@[simp] theorem loadSetup_mapSel (k : LoadKind) (s : State) : (loadSetup k s).mapSel = s.mapSel := rfl
@[simp] theorem loadSetup_prog (k : LoadKind) (s : State) :
    (loadSetup k s).prog = ⟨s.ops.total, s.ops.total, 0#32⟩ := rfl
@[simp] theorem loadSetup_cur (k : LoadKind) (s : State) :
    (loadSetup k s).cur = ⟨s.ops.src, minWord s.ops.cap s.ops.total, k.tag s.cfg, k.firstCount s.ops⟩ := rfl
@[simp] theorem loadSetup_ulLast (k : LoadKind) (s : State) : (loadSetup k s).ulLast = s.ulLast := rfl
@[simp] theorem loadSetup_dlState (k : LoadKind) (s : State) : (loadSetup k s).dlState = .transferring := rfl
@[simp] theorem loadSetup_ulState (k : LoadKind) (s : State) : (loadSetup k s).ulState = s.ulState := rfl
@[simp] theorem loadSetup_bootState (k : LoadKind) (s : State) : (loadSetup k s).bootState = s.bootState := rfl
@[simp] theorem loadSetup_copyStarted (k : LoadKind) (s : State) : (loadSetup k s).copyStarted = s.copyStarted := rfl
@[simp] theorem loadSetup_copyComplete (k : LoadKind) (s : State) : (loadSetup k s).copyComplete = s.copyComplete := rfl
@[simp] theorem loadSetup_bootComplete (k : LoadKind) (s : State) : (loadSetup k s).bootComplete = s.bootComplete := rfl
@[simp] theorem loadSetup_contPending (k : LoadKind) (s : State) : (loadSetup k s).contPending = false := rfl
@[simp] theorem loadSetup_cont (k : LoadKind) (s : State) : (loadSetup k s).cont = s.cont := rfl
@[simp] theorem loadSetup_mbxIn (k : LoadKind) (s : State) : (loadSetup k s).mbxIn = s.mbxIn := rfl
@[simp] theorem loadSetup_pend (k : LoadKind) (s : State) : (loadSetup k s).pend = s.pend := rfl
@[simp] theorem loadSetup_mbxOut (k : LoadKind) (s : State) : (loadSetup k s).mbxOut = s.mbxOut := rfl
@[simp] theorem loadSetup_peerIrq (k : LoadKind) (s : State) : (loadSetup k s).peerIrq = s.peerIrq := rfl
@[simp] theorem loadSetup_lastUnrecog (k : LoadKind) (s : State) : (loadSetup k s).lastUnrecog = s.lastUnrecog := rfl
@[simp] theorem loadSetup_pollLeft (k : LoadKind) (s : State) : (loadSetup k s).pollLeft = s.pollLeft := rfl
@[simp] theorem loadSetup_window (k : LoadKind) (s : State) : (loadSetup k s).window = s.window := rfl
@[simp] theorem loadSetup_hostMem (k : LoadKind) (s : State) : (loadSetup k s).hostMem = s.hostMem := rfl
@[simp] theorem loadSetup_history (k : LoadKind) (s : State) : (loadSetup k s).history = s.history := rfl
@[simp] theorem loadSetup_agenda (k : LoadKind) (s : State) : (loadSetup k s).agenda = s.agenda := rfl
@[simp] theorem loadSetup_hostRdata (k : LoadKind) (s : State) : (loadSetup k s).hostRdata = s.hostRdata := rfl

/-! ### advanceFrame -/

@[simp] theorem advanceFrame_cfg (s : State) : (advanceFrame s).cfg = s.cfg := rfl
@[simp] theorem advanceFrame_busy (s : State) : (advanceFrame s).busy = s.busy := rfl
@[simp] theorem advanceFrame_curOp (s : State) : (advanceFrame s).curOp = s.curOp := rfl
@[simp] theorem advanceFrame_cmdw (s : State) : (advanceFrame s).cmdw = s.cmdw := rfl
@[simp] theorem advanceFrame_phase (s : State) : (advanceFrame s).phase = s.phase := rfl
@[simp] theorem advanceFrame_lock (s : State) : (advanceFrame s).lock = s.lock := rfl
@[simp] theorem advanceFrame_opnd (s : State) : (advanceFrame s).opnd = s.opnd := rfl
@[simp] theorem advanceFrame_ops (s : State) : (advanceFrame s).ops = s.ops := rfl
@[simp] theorem advanceFrame_resultCode (s : State) : (advanceFrame s).resultCode = s.resultCode := rfl
@[simp] theorem advanceFrame_lastOp (s : State) : (advanceFrame s).lastOp = s.lastOp := rfl
@[simp] theorem advanceFrame_notifyEn (s : State) : (advanceFrame s).notifyEn = s.notifyEn := rfl
@[simp] theorem advanceFrame_irqStatus (s : State) : (advanceFrame s).irqStatus = s.irqStatus := rfl
@[simp] theorem advanceFrame_irqEnable (s : State) : (advanceFrame s).irqEnable = s.irqEnable := rfl
@[simp] theorem advanceFrame_map (s : State) : (advanceFrame s).map = s.map := rfl
@[simp] theorem advanceFrame_mapDir (s : State) : (advanceFrame s).mapDir = s.mapDir := rfl
@[simp] theorem advanceFrame_mapSel (s : State) : (advanceFrame s).mapSel = s.mapSel := rfl
@[simp] theorem advanceFrame_prog (s : State) :
    (advanceFrame s).prog = ⟨s.prog.total, s.prog.remain - s.cur.frame, s.prog.sent + s.cur.frame⟩ := rfl
@[simp] theorem advanceFrame_ulLast (s : State) : (advanceFrame s).ulLast = s.ulLast := rfl
@[simp] theorem advanceFrame_dlState (s : State) : (advanceFrame s).dlState = s.dlState := rfl
@[simp] theorem advanceFrame_ulState (s : State) : (advanceFrame s).ulState = s.ulState := rfl
@[simp] theorem advanceFrame_bootState (s : State) : (advanceFrame s).bootState = s.bootState := rfl
@[simp] theorem advanceFrame_copyStarted (s : State) : (advanceFrame s).copyStarted = s.copyStarted := rfl
@[simp] theorem advanceFrame_copyComplete (s : State) : (advanceFrame s).copyComplete = s.copyComplete := rfl
@[simp] theorem advanceFrame_bootComplete (s : State) : (advanceFrame s).bootComplete = s.bootComplete := rfl
@[simp] theorem advanceFrame_contPending (s : State) : (advanceFrame s).contPending = s.contPending := rfl
@[simp] theorem advanceFrame_cont (s : State) : (advanceFrame s).cont = s.cont := rfl
@[simp] theorem advanceFrame_mbxIn (s : State) : (advanceFrame s).mbxIn = s.mbxIn := rfl
@[simp] theorem advanceFrame_pend (s : State) : (advanceFrame s).pend = s.pend := rfl
@[simp] theorem advanceFrame_mbxOut (s : State) : (advanceFrame s).mbxOut = s.mbxOut := rfl
@[simp] theorem advanceFrame_peerIrq (s : State) : (advanceFrame s).peerIrq = s.peerIrq := rfl
@[simp] theorem advanceFrame_lastUnrecog (s : State) : (advanceFrame s).lastUnrecog = s.lastUnrecog := rfl
@[simp] theorem advanceFrame_pollLeft (s : State) : (advanceFrame s).pollLeft = s.pollLeft := rfl
@[simp] theorem advanceFrame_window (s : State) : (advanceFrame s).window = s.window := rfl
@[simp] theorem advanceFrame_hostMem (s : State) : (advanceFrame s).hostMem = s.hostMem := rfl
@[simp] theorem advanceFrame_history (s : State) : (advanceFrame s).history = s.history := rfl
@[simp] theorem advanceFrame_agenda (s : State) : (advanceFrame s).agenda = s.agenda := rfl
@[simp] theorem advanceFrame_hostRdata (s : State) : (advanceFrame s).hostRdata = s.hostRdata := rfl

/-! ### unrecognized -/

@[simp] theorem unrecognized_cfg (v : Code) (s : State) : (unrecognized v s).cfg = s.cfg := rfl
@[simp] theorem unrecognized_busy (v : Code) (s : State) : (unrecognized v s).busy = s.busy := rfl
@[simp] theorem unrecognized_curOp (v : Code) (s : State) : (unrecognized v s).curOp = s.curOp := rfl
@[simp] theorem unrecognized_cmdw (v : Code) (s : State) : (unrecognized v s).cmdw = s.cmdw := rfl
@[simp] theorem unrecognized_phase (v : Code) (s : State) : (unrecognized v s).phase = s.phase := rfl
@[simp] theorem unrecognized_lock (v : Code) (s : State) : (unrecognized v s).lock = s.lock := rfl
@[simp] theorem unrecognized_opnd (v : Code) (s : State) : (unrecognized v s).opnd = s.opnd := rfl
@[simp] theorem unrecognized_ops (v : Code) (s : State) : (unrecognized v s).ops = s.ops := rfl
@[simp] theorem unrecognized_resultCode (v : Code) (s : State) : (unrecognized v s).resultCode = s.resultCode := rfl
@[simp] theorem unrecognized_lastOp (v : Code) (s : State) : (unrecognized v s).lastOp = s.lastOp := rfl
@[simp] theorem unrecognized_notifyEn (v : Code) (s : State) : (unrecognized v s).notifyEn = s.notifyEn := rfl
@[simp] theorem unrecognized_irqStatus (v : Code) (s : State) :
    (unrecognized v s).irqStatus = s.irqStatus ||| irqUnrecog := rfl
@[simp] theorem unrecognized_irqEnable (v : Code) (s : State) : (unrecognized v s).irqEnable = s.irqEnable := rfl
@[simp] theorem unrecognized_map (v : Code) (s : State) : (unrecognized v s).map = s.map := rfl
@[simp] theorem unrecognized_mapDir (v : Code) (s : State) : (unrecognized v s).mapDir = s.mapDir := rfl
@[simp] theorem unrecognized_mapSel (v : Code) (s : State) : (unrecognized v s).mapSel = s.mapSel := rfl
@[simp] theorem unrecognized_prog (v : Code) (s : State) : (unrecognized v s).prog = s.prog := rfl
@[simp] theorem unrecognized_cur (v : Code) (s : State) : (unrecognized v s).cur = s.cur := rfl
@[simp] theorem unrecognized_ulLast (v : Code) (s : State) : (unrecognized v s).ulLast = s.ulLast := rfl
@[simp] theorem unrecognized_dlState (v : Code) (s : State) : (unrecognized v s).dlState = s.dlState := rfl
@[simp] theorem unrecognized_ulState (v : Code) (s : State) : (unrecognized v s).ulState = s.ulState := rfl
@[simp] theorem unrecognized_bootState (v : Code) (s : State) : (unrecognized v s).bootState = s.bootState := rfl
@[simp] theorem unrecognized_copyStarted (v : Code) (s : State) : (unrecognized v s).copyStarted = s.copyStarted := rfl
@[simp] theorem unrecognized_copyComplete (v : Code) (s : State) :
    (unrecognized v s).copyComplete = s.copyComplete := rfl
@[simp] theorem unrecognized_bootComplete (v : Code) (s : State) :
    (unrecognized v s).bootComplete = s.bootComplete := rfl
@[simp] theorem unrecognized_contPending (v : Code) (s : State) : (unrecognized v s).contPending = s.contPending := rfl
@[simp] theorem unrecognized_cont (v : Code) (s : State) : (unrecognized v s).cont = s.cont := rfl
@[simp] theorem unrecognized_mbxIn (v : Code) (s : State) : (unrecognized v s).mbxIn = s.mbxIn := rfl
@[simp] theorem unrecognized_pend (v : Code) (s : State) : (unrecognized v s).pend = s.pend := rfl
@[simp] theorem unrecognized_mbxOut (v : Code) (s : State) : (unrecognized v s).mbxOut = s.mbxOut := rfl
@[simp] theorem unrecognized_peerIrq (v : Code) (s : State) : (unrecognized v s).peerIrq = s.peerIrq := rfl
@[simp] theorem unrecognized_lastUnrecog (v : Code) (s : State) : (unrecognized v s).lastUnrecog = ⟨true, v⟩ := rfl
@[simp] theorem unrecognized_pollLeft (v : Code) (s : State) : (unrecognized v s).pollLeft = s.pollLeft := rfl
@[simp] theorem unrecognized_window (v : Code) (s : State) : (unrecognized v s).window = s.window := rfl
@[simp] theorem unrecognized_hostMem (v : Code) (s : State) : (unrecognized v s).hostMem = s.hostMem := rfl
@[simp] theorem unrecognized_history (v : Code) (s : State) :
    (unrecognized v s).history = .dropped v :: s.history := rfl
@[simp] theorem unrecognized_agenda (v : Code) (s : State) : (unrecognized v s).agenda = s.agenda := rfl
@[simp] theorem unrecognized_hostRdata (v : Code) (s : State) : (unrecognized v s).hostRdata = s.hostRdata := rfl

/-! ### peerReadOut -/

@[simp] theorem peerReadOut_cfg (s : State) : (peerReadOut s).cfg = s.cfg := rfl
@[simp] theorem peerReadOut_busy (s : State) : (peerReadOut s).busy = s.busy := rfl
@[simp] theorem peerReadOut_curOp (s : State) : (peerReadOut s).curOp = s.curOp := rfl
@[simp] theorem peerReadOut_cmdw (s : State) : (peerReadOut s).cmdw = s.cmdw := rfl
@[simp] theorem peerReadOut_phase (s : State) : (peerReadOut s).phase = s.phase := rfl
@[simp] theorem peerReadOut_lock (s : State) : (peerReadOut s).lock = s.lock := rfl
@[simp] theorem peerReadOut_opnd (s : State) : (peerReadOut s).opnd = s.opnd := rfl
@[simp] theorem peerReadOut_ops (s : State) : (peerReadOut s).ops = s.ops := rfl
@[simp] theorem peerReadOut_resultCode (s : State) : (peerReadOut s).resultCode = s.resultCode := rfl
@[simp] theorem peerReadOut_lastOp (s : State) : (peerReadOut s).lastOp = s.lastOp := rfl
@[simp] theorem peerReadOut_notifyEn (s : State) : (peerReadOut s).notifyEn = s.notifyEn := rfl
@[simp] theorem peerReadOut_irqStatus (s : State) : (peerReadOut s).irqStatus = s.irqStatus := rfl
@[simp] theorem peerReadOut_irqEnable (s : State) : (peerReadOut s).irqEnable = s.irqEnable := rfl
@[simp] theorem peerReadOut_map (s : State) : (peerReadOut s).map = s.map := rfl
@[simp] theorem peerReadOut_mapDir (s : State) : (peerReadOut s).mapDir = s.mapDir := rfl
@[simp] theorem peerReadOut_mapSel (s : State) : (peerReadOut s).mapSel = s.mapSel := rfl
@[simp] theorem peerReadOut_prog (s : State) : (peerReadOut s).prog = s.prog := rfl
@[simp] theorem peerReadOut_cur (s : State) : (peerReadOut s).cur = s.cur := rfl
@[simp] theorem peerReadOut_ulLast (s : State) : (peerReadOut s).ulLast = s.ulLast := rfl
@[simp] theorem peerReadOut_dlState (s : State) : (peerReadOut s).dlState = s.dlState := rfl
@[simp] theorem peerReadOut_ulState (s : State) : (peerReadOut s).ulState = s.ulState := rfl
@[simp] theorem peerReadOut_bootState (s : State) : (peerReadOut s).bootState = s.bootState := rfl
@[simp] theorem peerReadOut_copyStarted (s : State) : (peerReadOut s).copyStarted = s.copyStarted := rfl
@[simp] theorem peerReadOut_copyComplete (s : State) : (peerReadOut s).copyComplete = s.copyComplete := rfl
@[simp] theorem peerReadOut_bootComplete (s : State) : (peerReadOut s).bootComplete = s.bootComplete := rfl
@[simp] theorem peerReadOut_contPending (s : State) : (peerReadOut s).contPending = s.contPending := rfl
@[simp] theorem peerReadOut_cont (s : State) : (peerReadOut s).cont = s.cont := rfl
@[simp] theorem peerReadOut_mbxIn (s : State) : (peerReadOut s).mbxIn = s.mbxIn := rfl
@[simp] theorem peerReadOut_pend (s : State) : (peerReadOut s).pend = s.pend := rfl
@[simp] theorem peerReadOut_mbxOut (s : State) : (peerReadOut s).mbxOut = s.mbxOut := rfl
@[simp] theorem peerReadOut_peerIrq (s : State) : (peerReadOut s).peerIrq = false := rfl
@[simp] theorem peerReadOut_lastUnrecog (s : State) : (peerReadOut s).lastUnrecog = s.lastUnrecog := rfl
@[simp] theorem peerReadOut_pollLeft (s : State) : (peerReadOut s).pollLeft = s.pollLeft := rfl
@[simp] theorem peerReadOut_window (s : State) : (peerReadOut s).window = s.window := rfl
@[simp] theorem peerReadOut_hostMem (s : State) : (peerReadOut s).hostMem = s.hostMem := rfl
@[simp] theorem peerReadOut_history (s : State) : (peerReadOut s).history = .peerRead s.mbxOut :: s.history := rfl
@[simp] theorem peerReadOut_agenda (s : State) : (peerReadOut s).agenda = s.agenda := rfl
@[simp] theorem peerReadOut_hostRdata (s : State) : (peerReadOut s).hostRdata = s.hostRdata := rfl

/-! ### hostRead -/

@[simp] theorem hostRead_cfg (off width : Nat) (s : State) : (hostRead off width s).cfg = s.cfg := rfl
@[simp] theorem hostRead_busy (off width : Nat) (s : State) : (hostRead off width s).busy = s.busy := rfl
@[simp] theorem hostRead_curOp (off width : Nat) (s : State) : (hostRead off width s).curOp = s.curOp := rfl
@[simp] theorem hostRead_cmdw (off width : Nat) (s : State) : (hostRead off width s).cmdw = s.cmdw := rfl
@[simp] theorem hostRead_phase (off width : Nat) (s : State) : (hostRead off width s).phase = s.phase := rfl
@[simp] theorem hostRead_lock (off width : Nat) (s : State) : (hostRead off width s).lock = s.lock := rfl
@[simp] theorem hostRead_opnd (off width : Nat) (s : State) : (hostRead off width s).opnd = s.opnd := rfl
@[simp] theorem hostRead_ops (off width : Nat) (s : State) : (hostRead off width s).ops = s.ops := rfl
@[simp] theorem hostRead_resultCode (off width : Nat) (s : State) :
    (hostRead off width s).resultCode = s.resultCode := rfl
@[simp] theorem hostRead_lastOp (off width : Nat) (s : State) : (hostRead off width s).lastOp = s.lastOp := rfl
@[simp] theorem hostRead_notifyEn (off width : Nat) (s : State) : (hostRead off width s).notifyEn = s.notifyEn := rfl
@[simp] theorem hostRead_irqStatus (off width : Nat) (s : State) : (hostRead off width s).irqStatus = s.irqStatus := rfl
@[simp] theorem hostRead_irqEnable (off width : Nat) (s : State) : (hostRead off width s).irqEnable = s.irqEnable := rfl
@[simp] theorem hostRead_map (off width : Nat) (s : State) : (hostRead off width s).map = s.map := rfl
@[simp] theorem hostRead_mapDir (off width : Nat) (s : State) : (hostRead off width s).mapDir = s.mapDir := rfl
@[simp] theorem hostRead_mapSel (off width : Nat) (s : State) : (hostRead off width s).mapSel = s.mapSel := rfl
@[simp] theorem hostRead_prog (off width : Nat) (s : State) : (hostRead off width s).prog = s.prog := rfl
@[simp] theorem hostRead_cur (off width : Nat) (s : State) : (hostRead off width s).cur = s.cur := rfl
@[simp] theorem hostRead_ulLast (off width : Nat) (s : State) : (hostRead off width s).ulLast = s.ulLast := rfl
@[simp] theorem hostRead_dlState (off width : Nat) (s : State) : (hostRead off width s).dlState = s.dlState := rfl
@[simp] theorem hostRead_ulState (off width : Nat) (s : State) : (hostRead off width s).ulState = s.ulState := rfl
@[simp] theorem hostRead_bootState (off width : Nat) (s : State) : (hostRead off width s).bootState = s.bootState := rfl
@[simp] theorem hostRead_copyStarted (off width : Nat) (s : State) :
    (hostRead off width s).copyStarted = s.copyStarted := rfl
@[simp] theorem hostRead_copyComplete (off width : Nat) (s : State) :
    (hostRead off width s).copyComplete = s.copyComplete := rfl
@[simp] theorem hostRead_bootComplete (off width : Nat) (s : State) :
    (hostRead off width s).bootComplete = s.bootComplete := rfl
@[simp] theorem hostRead_contPending (off width : Nat) (s : State) :
    (hostRead off width s).contPending = s.contPending := rfl
@[simp] theorem hostRead_cont (off width : Nat) (s : State) : (hostRead off width s).cont = s.cont := rfl
@[simp] theorem hostRead_mbxIn (off width : Nat) (s : State) : (hostRead off width s).mbxIn = s.mbxIn := rfl
@[simp] theorem hostRead_pend (off width : Nat) (s : State) : (hostRead off width s).pend = s.pend := rfl
@[simp] theorem hostRead_mbxOut (off width : Nat) (s : State) : (hostRead off width s).mbxOut = s.mbxOut := rfl
@[simp] theorem hostRead_peerIrq (off width : Nat) (s : State) : (hostRead off width s).peerIrq = s.peerIrq := rfl
@[simp] theorem hostRead_lastUnrecog (off width : Nat) (s : State) :
    (hostRead off width s).lastUnrecog = s.lastUnrecog := rfl
@[simp] theorem hostRead_pollLeft (off width : Nat) (s : State) : (hostRead off width s).pollLeft = s.pollLeft := rfl
@[simp] theorem hostRead_window (off width : Nat) (s : State) : (hostRead off width s).window = s.window := rfl
@[simp] theorem hostRead_hostMem (off width : Nat) (s : State) : (hostRead off width s).hostMem = s.hostMem := rfl
@[simp] theorem hostRead_history (off width : Nat) (s : State) : (hostRead off width s).history = s.history := rfl
@[simp] theorem hostRead_agenda (off width : Nat) (s : State) : (hostRead off width s).agenda = s.agenda := rfl
@[simp] theorem hostRead_hostRdata (off width : Nat) (s : State) :
    (hostRead off width s).hostRdata = hostReadValue off width s := rfl

/-! ### send -/

@[simp] theorem send_cfg (c : Code) (s : State) :
    (send c s).cfg = s.cfg := by
  cases h : s.peerIrq <;> simp [send, record, h]
@[simp] theorem send_busy (c : Code) (s : State) :
    (send c s).busy = s.busy := by
  cases h : s.peerIrq <;> simp [send, record, h]
@[simp] theorem send_curOp (c : Code) (s : State) :
    (send c s).curOp = s.curOp := by
  cases h : s.peerIrq <;> simp [send, record, h]
@[simp] theorem send_cmdw (c : Code) (s : State) :
    (send c s).cmdw = s.cmdw := by
  cases h : s.peerIrq <;> simp [send, record, h]
@[simp] theorem send_phase (c : Code) (s : State) :
    (send c s).phase = s.phase := by
  cases h : s.peerIrq <;> simp [send, record, h]
@[simp] theorem send_lock (c : Code) (s : State) :
    (send c s).lock = s.lock := by
  cases h : s.peerIrq <;> simp [send, record, h]
@[simp] theorem send_opnd (c : Code) (s : State) :
    (send c s).opnd = s.opnd := by
  cases h : s.peerIrq <;> simp [send, record, h]
@[simp] theorem send_ops (c : Code) (s : State) :
    (send c s).ops = s.ops := by
  cases h : s.peerIrq <;> simp [send, record, h]
@[simp] theorem send_resultCode (c : Code) (s : State) :
    (send c s).resultCode = s.resultCode := by
  cases h : s.peerIrq <;> simp [send, record, h]
@[simp] theorem send_lastOp (c : Code) (s : State) :
    (send c s).lastOp = s.lastOp := by
  cases h : s.peerIrq <;> simp [send, record, h]
@[simp] theorem send_notifyEn (c : Code) (s : State) :
    (send c s).notifyEn = s.notifyEn := by
  cases h : s.peerIrq <;> simp [send, record, h]
@[simp] theorem send_irqStatus (c : Code) (s : State) :
    (send c s).irqStatus = s.irqStatus := by
  cases h : s.peerIrq <;> simp [send, record, h]
@[simp] theorem send_irqEnable (c : Code) (s : State) :
    (send c s).irqEnable = s.irqEnable := by
  cases h : s.peerIrq <;> simp [send, record, h]
@[simp] theorem send_map (c : Code) (s : State) :
    (send c s).map = s.map := by
  cases h : s.peerIrq <;> simp [send, record, h]
@[simp] theorem send_mapDir (c : Code) (s : State) :
    (send c s).mapDir = s.mapDir := by
  cases h : s.peerIrq <;> simp [send, record, h]
@[simp] theorem send_mapSel (c : Code) (s : State) :
    (send c s).mapSel = s.mapSel := by
  cases h : s.peerIrq <;> simp [send, record, h]
@[simp] theorem send_prog (c : Code) (s : State) :
    (send c s).prog = s.prog := by
  cases h : s.peerIrq <;> simp [send, record, h]
@[simp] theorem send_cur (c : Code) (s : State) :
    (send c s).cur = s.cur := by
  cases h : s.peerIrq <;> simp [send, record, h]
@[simp] theorem send_ulLast (c : Code) (s : State) :
    (send c s).ulLast = s.ulLast := by
  cases h : s.peerIrq <;> simp [send, record, h]
@[simp] theorem send_dlState (c : Code) (s : State) :
    (send c s).dlState = s.dlState := by
  cases h : s.peerIrq <;> simp [send, record, h]
@[simp] theorem send_ulState (c : Code) (s : State) :
    (send c s).ulState = s.ulState := by
  cases h : s.peerIrq <;> simp [send, record, h]
@[simp] theorem send_bootState (c : Code) (s : State) :
    (send c s).bootState = s.bootState := by
  cases h : s.peerIrq <;> simp [send, record, h]
@[simp] theorem send_copyStarted (c : Code) (s : State) :
    (send c s).copyStarted = s.copyStarted := by
  cases h : s.peerIrq <;> simp [send, record, h]
@[simp] theorem send_copyComplete (c : Code) (s : State) :
    (send c s).copyComplete = s.copyComplete := by
  cases h : s.peerIrq <;> simp [send, record, h]
@[simp] theorem send_bootComplete (c : Code) (s : State) :
    (send c s).bootComplete = s.bootComplete := by
  cases h : s.peerIrq <;> simp [send, record, h]
@[simp] theorem send_contPending (c : Code) (s : State) :
    (send c s).contPending = s.contPending := by
  cases h : s.peerIrq <;> simp [send, record, h]
@[simp] theorem send_cont (c : Code) (s : State) :
    (send c s).cont = s.cont := by
  cases h : s.peerIrq <;> simp [send, record, h]
@[simp] theorem send_mbxIn (c : Code) (s : State) :
    (send c s).mbxIn = s.mbxIn := by
  cases h : s.peerIrq <;> simp [send, record, h]
@[simp] theorem send_pend (c : Code) (s : State) :
    (send c s).pend = s.pend := by
  cases h : s.peerIrq <;> simp [send, record, h]
@[simp] theorem send_mbxOut (c : Code) (s : State) :
    (send c s).mbxOut = c := by
  cases h : s.peerIrq <;> simp [send, record, h]
@[simp] theorem send_peerIrq (c : Code) (s : State) :
    (send c s).peerIrq = true := by
  cases h : s.peerIrq <;> simp [send, record, h]
@[simp] theorem send_lastUnrecog (c : Code) (s : State) :
    (send c s).lastUnrecog = s.lastUnrecog := by
  cases h : s.peerIrq <;> simp [send, record, h]
@[simp] theorem send_pollLeft (c : Code) (s : State) :
    (send c s).pollLeft = s.pollLeft := by
  cases h : s.peerIrq <;> simp [send, record, h]
@[simp] theorem send_window (c : Code) (s : State) :
    (send c s).window = s.window := by
  cases h : s.peerIrq <;> simp [send, record, h]
@[simp] theorem send_hostMem (c : Code) (s : State) :
    (send c s).hostMem = s.hostMem := by
  cases h : s.peerIrq <;> simp [send, record, h]
@[simp] theorem send_history (c : Code) (s : State) :
    (send c s).history = .send c :: (if s.peerIrq = true then .outOverwritten s.mbxOut :: s.history else s.history) := by
  cases h : s.peerIrq <;> simp [send, record, h]
@[simp] theorem send_agenda (c : Code) (s : State) :
    (send c s).agenda = s.agenda := by
  cases h : s.peerIrq <;> simp [send, record, h]
@[simp] theorem send_hostRdata (c : Code) (s : State) :
    (send c s).hostRdata = s.hostRdata := by
  cases h : s.peerIrq <;> simp [send, record, h]

/-! ### peerNotify -/

@[simp] theorem peerNotify_cfg (c : Code) (s : State) :
    (peerNotify c s).cfg = s.cfg := by
  cases h : s.pend <;> simp [peerNotify, record, h]
@[simp] theorem peerNotify_busy (c : Code) (s : State) :
    (peerNotify c s).busy = s.busy := by
  cases h : s.pend <;> simp [peerNotify, record, h]
@[simp] theorem peerNotify_curOp (c : Code) (s : State) :
    (peerNotify c s).curOp = s.curOp := by
  cases h : s.pend <;> simp [peerNotify, record, h]
@[simp] theorem peerNotify_cmdw (c : Code) (s : State) :
    (peerNotify c s).cmdw = s.cmdw := by
  cases h : s.pend <;> simp [peerNotify, record, h]
@[simp] theorem peerNotify_phase (c : Code) (s : State) :
    (peerNotify c s).phase = s.phase := by
  cases h : s.pend <;> simp [peerNotify, record, h]
@[simp] theorem peerNotify_lock (c : Code) (s : State) :
    (peerNotify c s).lock = s.lock := by
  cases h : s.pend <;> simp [peerNotify, record, h]
@[simp] theorem peerNotify_opnd (c : Code) (s : State) :
    (peerNotify c s).opnd = s.opnd := by
  cases h : s.pend <;> simp [peerNotify, record, h]
@[simp] theorem peerNotify_ops (c : Code) (s : State) :
    (peerNotify c s).ops = s.ops := by
  cases h : s.pend <;> simp [peerNotify, record, h]
@[simp] theorem peerNotify_resultCode (c : Code) (s : State) :
    (peerNotify c s).resultCode = s.resultCode := by
  cases h : s.pend <;> simp [peerNotify, record, h]
@[simp] theorem peerNotify_lastOp (c : Code) (s : State) :
    (peerNotify c s).lastOp = s.lastOp := by
  cases h : s.pend <;> simp [peerNotify, record, h]
@[simp] theorem peerNotify_notifyEn (c : Code) (s : State) :
    (peerNotify c s).notifyEn = s.notifyEn := by
  cases h : s.pend <;> simp [peerNotify, record, h]
@[simp] theorem peerNotify_irqStatus (c : Code) (s : State) :
    (peerNotify c s).irqStatus = s.irqStatus := by
  cases h : s.pend <;> simp [peerNotify, record, h]
@[simp] theorem peerNotify_irqEnable (c : Code) (s : State) :
    (peerNotify c s).irqEnable = s.irqEnable := by
  cases h : s.pend <;> simp [peerNotify, record, h]
@[simp] theorem peerNotify_map (c : Code) (s : State) :
    (peerNotify c s).map = s.map := by
  cases h : s.pend <;> simp [peerNotify, record, h]
@[simp] theorem peerNotify_mapDir (c : Code) (s : State) :
    (peerNotify c s).mapDir = s.mapDir := by
  cases h : s.pend <;> simp [peerNotify, record, h]
@[simp] theorem peerNotify_mapSel (c : Code) (s : State) :
    (peerNotify c s).mapSel = s.mapSel := by
  cases h : s.pend <;> simp [peerNotify, record, h]
@[simp] theorem peerNotify_prog (c : Code) (s : State) :
    (peerNotify c s).prog = s.prog := by
  cases h : s.pend <;> simp [peerNotify, record, h]
@[simp] theorem peerNotify_cur (c : Code) (s : State) :
    (peerNotify c s).cur = s.cur := by
  cases h : s.pend <;> simp [peerNotify, record, h]
@[simp] theorem peerNotify_ulLast (c : Code) (s : State) :
    (peerNotify c s).ulLast = s.ulLast := by
  cases h : s.pend <;> simp [peerNotify, record, h]
@[simp] theorem peerNotify_dlState (c : Code) (s : State) :
    (peerNotify c s).dlState = s.dlState := by
  cases h : s.pend <;> simp [peerNotify, record, h]
@[simp] theorem peerNotify_ulState (c : Code) (s : State) :
    (peerNotify c s).ulState = s.ulState := by
  cases h : s.pend <;> simp [peerNotify, record, h]
@[simp] theorem peerNotify_bootState (c : Code) (s : State) :
    (peerNotify c s).bootState = s.bootState := by
  cases h : s.pend <;> simp [peerNotify, record, h]
@[simp] theorem peerNotify_copyStarted (c : Code) (s : State) :
    (peerNotify c s).copyStarted = s.copyStarted := by
  cases h : s.pend <;> simp [peerNotify, record, h]
@[simp] theorem peerNotify_copyComplete (c : Code) (s : State) :
    (peerNotify c s).copyComplete = s.copyComplete := by
  cases h : s.pend <;> simp [peerNotify, record, h]
@[simp] theorem peerNotify_bootComplete (c : Code) (s : State) :
    (peerNotify c s).bootComplete = s.bootComplete := by
  cases h : s.pend <;> simp [peerNotify, record, h]
@[simp] theorem peerNotify_contPending (c : Code) (s : State) :
    (peerNotify c s).contPending = s.contPending := by
  cases h : s.pend <;> simp [peerNotify, record, h]
@[simp] theorem peerNotify_cont (c : Code) (s : State) :
    (peerNotify c s).cont = s.cont := by
  cases h : s.pend <;> simp [peerNotify, record, h]
@[simp] theorem peerNotify_mbxIn (c : Code) (s : State) :
    (peerNotify c s).mbxIn = c := by
  cases h : s.pend <;> simp [peerNotify, record, h]
@[simp] theorem peerNotify_pend (c : Code) (s : State) :
    (peerNotify c s).pend = true := by
  cases h : s.pend <;> simp [peerNotify, record, h]
@[simp] theorem peerNotify_mbxOut (c : Code) (s : State) :
    (peerNotify c s).mbxOut = s.mbxOut := by
  cases h : s.pend <;> simp [peerNotify, record, h]
@[simp] theorem peerNotify_peerIrq (c : Code) (s : State) :
    (peerNotify c s).peerIrq = s.peerIrq := by
  cases h : s.pend <;> simp [peerNotify, record, h]
@[simp] theorem peerNotify_lastUnrecog (c : Code) (s : State) :
    (peerNotify c s).lastUnrecog = s.lastUnrecog := by
  cases h : s.pend <;> simp [peerNotify, record, h]
@[simp] theorem peerNotify_pollLeft (c : Code) (s : State) :
    (peerNotify c s).pollLeft = s.pollLeft := by
  cases h : s.pend <;> simp [peerNotify, record, h]
@[simp] theorem peerNotify_window (c : Code) (s : State) :
    (peerNotify c s).window = s.window := by
  cases h : s.pend <;> simp [peerNotify, record, h]
@[simp] theorem peerNotify_hostMem (c : Code) (s : State) :
    (peerNotify c s).hostMem = s.hostMem := by
  cases h : s.pend <;> simp [peerNotify, record, h]
@[simp] theorem peerNotify_history (c : Code) (s : State) :
    (peerNotify c s).history = .notify c :: (if s.pend = true then .overwritten s.mbxIn :: s.history else s.history) := by
  cases h : s.pend <;> simp [peerNotify, record, h]
@[simp] theorem peerNotify_agenda (c : Code) (s : State) :
    (peerNotify c s).agenda = s.agenda := by
  cases h : s.pend <;> simp [peerNotify, record, h]
@[simp] theorem peerNotify_hostRdata (c : Code) (s : State) :
    (peerNotify c s).hostRdata = s.hostRdata := by
  cases h : s.pend <;> simp [peerNotify, record, h]

/-! ### setLatch -/

@[simp] theorem setLatch_cfg (l : Latch) (s : State) :
    (setLatch l s).cfg = s.cfg := by
  cases l <;> simp [setLatch, record]
@[simp] theorem setLatch_busy (l : Latch) (s : State) :
    (setLatch l s).busy = s.busy := by
  cases l <;> simp [setLatch, record]
@[simp] theorem setLatch_curOp (l : Latch) (s : State) :
    (setLatch l s).curOp = s.curOp := by
  cases l <;> simp [setLatch, record]
@[simp] theorem setLatch_cmdw (l : Latch) (s : State) :
    (setLatch l s).cmdw = s.cmdw := by
  cases l <;> simp [setLatch, record]
@[simp] theorem setLatch_phase (l : Latch) (s : State) :
    (setLatch l s).phase = s.phase := by
  cases l <;> simp [setLatch, record]
@[simp] theorem setLatch_lock (l : Latch) (s : State) :
    (setLatch l s).lock = s.lock := by
  cases l <;> simp [setLatch, record]
@[simp] theorem setLatch_opnd (l : Latch) (s : State) :
    (setLatch l s).opnd = s.opnd := by
  cases l <;> simp [setLatch, record]
@[simp] theorem setLatch_ops (l : Latch) (s : State) :
    (setLatch l s).ops = s.ops := by
  cases l <;> simp [setLatch, record]
@[simp] theorem setLatch_resultCode (l : Latch) (s : State) :
    (setLatch l s).resultCode = s.resultCode := by
  cases l <;> simp [setLatch, record]
@[simp] theorem setLatch_lastOp (l : Latch) (s : State) :
    (setLatch l s).lastOp = s.lastOp := by
  cases l <;> simp [setLatch, record]
@[simp] theorem setLatch_notifyEn (l : Latch) (s : State) :
    (setLatch l s).notifyEn = s.notifyEn := by
  cases l <;> simp [setLatch, record]
@[simp] theorem setLatch_irqStatus (l : Latch) (s : State) :
    (setLatch l s).irqStatus = s.irqStatus := by
  cases l <;> simp [setLatch, record]
@[simp] theorem setLatch_irqEnable (l : Latch) (s : State) :
    (setLatch l s).irqEnable = s.irqEnable := by
  cases l <;> simp [setLatch, record]
@[simp] theorem setLatch_map (l : Latch) (s : State) :
    (setLatch l s).map = s.map := by
  cases l <;> simp [setLatch, record]
@[simp] theorem setLatch_mapDir (l : Latch) (s : State) :
    (setLatch l s).mapDir = s.mapDir := by
  cases l <;> simp [setLatch, record]
@[simp] theorem setLatch_mapSel (l : Latch) (s : State) :
    (setLatch l s).mapSel = s.mapSel := by
  cases l <;> simp [setLatch, record]
@[simp] theorem setLatch_prog (l : Latch) (s : State) :
    (setLatch l s).prog = s.prog := by
  cases l <;> simp [setLatch, record]
@[simp] theorem setLatch_cur (l : Latch) (s : State) :
    (setLatch l s).cur = s.cur := by
  cases l <;> simp [setLatch, record]
@[simp] theorem setLatch_ulLast (l : Latch) (s : State) :
    (setLatch l s).ulLast = s.ulLast := by
  cases l <;> simp [setLatch, record]
@[simp] theorem setLatch_dlState (l : Latch) (s : State) :
    (setLatch l s).dlState = s.dlState := by
  cases l <;> simp [setLatch, record]
@[simp] theorem setLatch_ulState (l : Latch) (s : State) :
    (setLatch l s).ulState = s.ulState := by
  cases l <;> simp [setLatch, record]
@[simp] theorem setLatch_bootState (l : Latch) (s : State) :
    (setLatch l s).bootState = s.bootState := by
  cases l <;> simp [setLatch, record]
@[simp] theorem setLatch_copyStarted (l : Latch) (s : State) :
    (setLatch l s).copyStarted = (s.copyStarted || decide (l = .copyStarted)) := by
  cases l <;> simp [setLatch, record]
@[simp] theorem setLatch_copyComplete (l : Latch) (s : State) :
    (setLatch l s).copyComplete = (s.copyComplete || decide (l = .copyComplete)) := by
  cases l <;> simp [setLatch, record]
@[simp] theorem setLatch_bootComplete (l : Latch) (s : State) :
    (setLatch l s).bootComplete = (s.bootComplete || decide (l = .bootComplete)) := by
  cases l <;> simp [setLatch, record]
@[simp] theorem setLatch_contPending (l : Latch) (s : State) :
    (setLatch l s).contPending = s.contPending := by
  cases l <;> simp [setLatch, record]
@[simp] theorem setLatch_cont (l : Latch) (s : State) :
    (setLatch l s).cont = s.cont := by
  cases l <;> simp [setLatch, record]
@[simp] theorem setLatch_mbxIn (l : Latch) (s : State) :
    (setLatch l s).mbxIn = s.mbxIn := by
  cases l <;> simp [setLatch, record]
@[simp] theorem setLatch_pend (l : Latch) (s : State) :
    (setLatch l s).pend = s.pend := by
  cases l <;> simp [setLatch, record]
@[simp] theorem setLatch_mbxOut (l : Latch) (s : State) :
    (setLatch l s).mbxOut = s.mbxOut := by
  cases l <;> simp [setLatch, record]
@[simp] theorem setLatch_peerIrq (l : Latch) (s : State) :
    (setLatch l s).peerIrq = s.peerIrq := by
  cases l <;> simp [setLatch, record]
@[simp] theorem setLatch_lastUnrecog (l : Latch) (s : State) :
    (setLatch l s).lastUnrecog = s.lastUnrecog := by
  cases l <;> simp [setLatch, record]
@[simp] theorem setLatch_pollLeft (l : Latch) (s : State) :
    (setLatch l s).pollLeft = s.pollLeft := by
  cases l <;> simp [setLatch, record]
@[simp] theorem setLatch_window (l : Latch) (s : State) :
    (setLatch l s).window = s.window := by
  cases l <;> simp [setLatch, record]
@[simp] theorem setLatch_hostMem (l : Latch) (s : State) :
    (setLatch l s).hostMem = s.hostMem := by
  cases l <;> simp [setLatch, record]
@[simp] theorem setLatch_history (l : Latch) (s : State) :
    (setLatch l s).history = .latchSet l :: s.history := by
  cases l <;> simp [setLatch, record]
@[simp] theorem setLatch_agenda (l : Latch) (s : State) :
    (setLatch l s).agenda = s.agenda := by
  cases l <;> simp [setLatch, record]
@[simp] theorem setLatch_hostRdata (l : Latch) (s : State) :
    (setLatch l s).hostRdata = s.hostRdata := by
  cases l <;> simp [setLatch, record]

/-! ### consumeLatch -/

@[simp] theorem consumeLatch_cfg (l : Latch) (s : State) :
    (consumeLatch l s).cfg = s.cfg := by
  cases l <;> simp [consumeLatch, record]
@[simp] theorem consumeLatch_busy (l : Latch) (s : State) :
    (consumeLatch l s).busy = s.busy := by
  cases l <;> simp [consumeLatch, record]
@[simp] theorem consumeLatch_curOp (l : Latch) (s : State) :
    (consumeLatch l s).curOp = s.curOp := by
  cases l <;> simp [consumeLatch, record]
@[simp] theorem consumeLatch_cmdw (l : Latch) (s : State) :
    (consumeLatch l s).cmdw = s.cmdw := by
  cases l <;> simp [consumeLatch, record]
@[simp] theorem consumeLatch_phase (l : Latch) (s : State) :
    (consumeLatch l s).phase = s.phase := by
  cases l <;> simp [consumeLatch, record]
@[simp] theorem consumeLatch_lock (l : Latch) (s : State) :
    (consumeLatch l s).lock = s.lock := by
  cases l <;> simp [consumeLatch, record]
@[simp] theorem consumeLatch_opnd (l : Latch) (s : State) :
    (consumeLatch l s).opnd = s.opnd := by
  cases l <;> simp [consumeLatch, record]
@[simp] theorem consumeLatch_ops (l : Latch) (s : State) :
    (consumeLatch l s).ops = s.ops := by
  cases l <;> simp [consumeLatch, record]
@[simp] theorem consumeLatch_resultCode (l : Latch) (s : State) :
    (consumeLatch l s).resultCode = s.resultCode := by
  cases l <;> simp [consumeLatch, record]
@[simp] theorem consumeLatch_lastOp (l : Latch) (s : State) :
    (consumeLatch l s).lastOp = s.lastOp := by
  cases l <;> simp [consumeLatch, record]
@[simp] theorem consumeLatch_notifyEn (l : Latch) (s : State) :
    (consumeLatch l s).notifyEn = s.notifyEn := by
  cases l <;> simp [consumeLatch, record]
@[simp] theorem consumeLatch_irqStatus (l : Latch) (s : State) :
    (consumeLatch l s).irqStatus = s.irqStatus := by
  cases l <;> simp [consumeLatch, record]
@[simp] theorem consumeLatch_irqEnable (l : Latch) (s : State) :
    (consumeLatch l s).irqEnable = s.irqEnable := by
  cases l <;> simp [consumeLatch, record]
@[simp] theorem consumeLatch_map (l : Latch) (s : State) :
    (consumeLatch l s).map = s.map := by
  cases l <;> simp [consumeLatch, record]
@[simp] theorem consumeLatch_mapDir (l : Latch) (s : State) :
    (consumeLatch l s).mapDir = s.mapDir := by
  cases l <;> simp [consumeLatch, record]
@[simp] theorem consumeLatch_mapSel (l : Latch) (s : State) :
    (consumeLatch l s).mapSel = s.mapSel := by
  cases l <;> simp [consumeLatch, record]
@[simp] theorem consumeLatch_prog (l : Latch) (s : State) :
    (consumeLatch l s).prog = s.prog := by
  cases l <;> simp [consumeLatch, record]
@[simp] theorem consumeLatch_cur (l : Latch) (s : State) :
    (consumeLatch l s).cur = s.cur := by
  cases l <;> simp [consumeLatch, record]
@[simp] theorem consumeLatch_ulLast (l : Latch) (s : State) :
    (consumeLatch l s).ulLast = s.ulLast := by
  cases l <;> simp [consumeLatch, record]
@[simp] theorem consumeLatch_dlState (l : Latch) (s : State) :
    (consumeLatch l s).dlState = s.dlState := by
  cases l <;> simp [consumeLatch, record]
@[simp] theorem consumeLatch_ulState (l : Latch) (s : State) :
    (consumeLatch l s).ulState = s.ulState := by
  cases l <;> simp [consumeLatch, record]
@[simp] theorem consumeLatch_bootState (l : Latch) (s : State) :
    (consumeLatch l s).bootState = s.bootState := by
  cases l <;> simp [consumeLatch, record]
@[simp] theorem consumeLatch_copyStarted (l : Latch) (s : State) :
    (consumeLatch l s).copyStarted = (s.copyStarted && decide (l ≠ .copyStarted)) := by
  cases l <;> simp [consumeLatch, record]
@[simp] theorem consumeLatch_copyComplete (l : Latch) (s : State) :
    (consumeLatch l s).copyComplete = (s.copyComplete && decide (l ≠ .copyComplete)) := by
  cases l <;> simp [consumeLatch, record]
@[simp] theorem consumeLatch_bootComplete (l : Latch) (s : State) :
    (consumeLatch l s).bootComplete = (s.bootComplete && decide (l ≠ .bootComplete)) := by
  cases l <;> simp [consumeLatch, record]
@[simp] theorem consumeLatch_contPending (l : Latch) (s : State) :
    (consumeLatch l s).contPending = s.contPending := by
  cases l <;> simp [consumeLatch, record]
@[simp] theorem consumeLatch_cont (l : Latch) (s : State) :
    (consumeLatch l s).cont = s.cont := by
  cases l <;> simp [consumeLatch, record]
@[simp] theorem consumeLatch_mbxIn (l : Latch) (s : State) :
    (consumeLatch l s).mbxIn = s.mbxIn := by
  cases l <;> simp [consumeLatch, record]
@[simp] theorem consumeLatch_pend (l : Latch) (s : State) :
    (consumeLatch l s).pend = s.pend := by
  cases l <;> simp [consumeLatch, record]
@[simp] theorem consumeLatch_mbxOut (l : Latch) (s : State) :
    (consumeLatch l s).mbxOut = s.mbxOut := by
  cases l <;> simp [consumeLatch, record]
@[simp] theorem consumeLatch_peerIrq (l : Latch) (s : State) :
    (consumeLatch l s).peerIrq = s.peerIrq := by
  cases l <;> simp [consumeLatch, record]
@[simp] theorem consumeLatch_lastUnrecog (l : Latch) (s : State) :
    (consumeLatch l s).lastUnrecog = s.lastUnrecog := by
  cases l <;> simp [consumeLatch, record]
@[simp] theorem consumeLatch_pollLeft (l : Latch) (s : State) :
    (consumeLatch l s).pollLeft = s.pollLeft := by
  cases l <;> simp [consumeLatch, record]
@[simp] theorem consumeLatch_window (l : Latch) (s : State) :
    (consumeLatch l s).window = s.window := by
  cases l <;> simp [consumeLatch, record]
@[simp] theorem consumeLatch_hostMem (l : Latch) (s : State) :
    (consumeLatch l s).hostMem = s.hostMem := by
  cases l <;> simp [consumeLatch, record]
@[simp] theorem consumeLatch_history (l : Latch) (s : State) :
    (consumeLatch l s).history = .latchConsumed l :: s.history := by
  cases l <;> simp [consumeLatch, record]
@[simp] theorem consumeLatch_agenda (l : Latch) (s : State) :
    (consumeLatch l s).agenda = s.agenda := by
  cases l <;> simp [consumeLatch, record]
@[simp] theorem consumeLatch_hostRdata (l : Latch) (s : State) :
    (consumeLatch l s).hostRdata = s.hostRdata := by
  cases l <;> simp [consumeLatch, record]

end Sys2Proof.Machine
end

