-- ==== Sys2Proof/Laws/Memory.lean ====
section
/-! SUPPORT. The laws of byte memories: read after write, and that every write keeps the canonical form and stays inside an
address space. -/

namespace Sys2Proof.Machine

/-! ### One byte -/

theorem Memory.wfFrom_mono {m : Memory} {lo lo' : Nat} (h : lo' ≤ lo) (hm : Memory.wfFrom lo m = true) :
    Memory.wfFrom lo' m = true := by
  cases m with
  | nil => rfl
  | cons p rest =>
    simp only [Memory.wfFrom, Bool.and_eq_true, decide_eq_true_eq] at hm ⊢
    exact ⟨⟨by omega, hm.1.2⟩, hm.2⟩

/-- Below the first address a canonical memory can list, it reads as an unlisted byte. -/
theorem Memory.read_below {m : Memory} {lo a : Nat} (h : a < lo) (hm : Memory.wfFrom lo m = true) :
    Memory.read m a = unlistedByte := by
  induction m generalizing lo with
  | nil => rfl
  | cons p rest ih =>
    simp only [Memory.wfFrom, Bool.and_eq_true, decide_eq_true_eq] at hm
    have : a ≠ p.1 := by omega
    simp only [Memory.read, this, if_false]
    exact ih (by omega) hm.2

theorem Memory.read_write_same {m : Memory} {lo : Nat} (a : Nat) (v : Byte) (hm : Memory.wfFrom lo m = true) :
    Memory.read (Memory.write m a v) a = v := by
  induction m generalizing lo with
  | nil =>
    by_cases hv : v = unlistedByte
    · simp [Memory.write, Memory.read, hv]
    · simp [Memory.write, Memory.read, hv]
  | cons p rest ih =>
    obtain ⟨b, w⟩ := p
    simp only [Memory.wfFrom, Bool.and_eq_true, decide_eq_true_eq] at hm
    simp only [Memory.write]
    split
    · rename_i hlt
      split
      · rename_i hv
        have hab : a ≠ b := by omega
        simp only [Memory.read, hab, if_false, hv]
        exact Memory.read_below (by omega) hm.2
      · simp [Memory.read]
    · split
      · rename_i hab
        split
        · rename_i hv
          rw [hv]
          exact Memory.read_below (by omega) hm.2
        · simp [Memory.read]
      · rename_i hab
        simp only [Memory.read, hab, if_false]
        exact ih hm.2

@[simp] theorem Memory.read_write_other (m : Memory) {a c : Nat} (v : Byte) (h : c ≠ a) :
    Memory.read (Memory.write m a v) c = Memory.read m c := by
  induction m with
  | nil =>
    by_cases hv : v = unlistedByte <;> simp [Memory.write, Memory.read, hv, h]
  | cons p rest ih =>
    obtain ⟨b, w⟩ := p
    simp only [Memory.write]
    split
    · split
      · rfl
      · simp [Memory.read, h]
    · split
      · rename_i hab
        subst hab
        split <;> simp [Memory.read, h]
      · simp only [Memory.read, ih]

theorem Memory.wfFrom_write {m : Memory} {lo : Nat} {a : Nat} (v : Byte) (h : lo ≤ a)
    (hm : Memory.wfFrom lo m = true) : Memory.wfFrom lo (Memory.write m a v) = true := by
  induction m generalizing lo with
  | nil =>
    by_cases hv : v = unlistedByte <;> simp [Memory.write, Memory.wfFrom, hv, h]
  | cons p rest ih =>
    obtain ⟨b, w⟩ := p
    have hm' := hm
    simp only [Memory.wfFrom, Bool.and_eq_true, decide_eq_true_eq] at hm'
    simp only [Memory.write]
    split
    · rename_i hlt
      split
      · exact hm
      · rename_i hv
        simp only [Memory.wfFrom, Bool.and_eq_true, decide_eq_true_eq]
        exact ⟨⟨h, hv⟩, ⟨⟨by omega, hm'.1.2⟩, hm'.2⟩⟩
    · split
      · rename_i hab
        split
        · exact Memory.wfFrom_mono (by omega) hm'.2
        · rename_i hv
          simp only [Memory.wfFrom, Bool.and_eq_true, decide_eq_true_eq]
          exact ⟨⟨h, hv⟩, by rw [hab]; exact hm'.2⟩
      · simp only [Memory.wfFrom, Bool.and_eq_true, decide_eq_true_eq]
        exact ⟨hm'.1, ih (by omega) hm'.2⟩

/-- A one-byte write keeps the canonical form. -/
theorem Memory.wf_write {m : Memory} (a : Nat) (v : Byte) (hm : Memory.wf m = true) :
    Memory.wf (Memory.write m a v) = true :=
  Memory.wfFrom_write v (Nat.zero_le a) hm

/-- A one-byte write inside an address space lists nothing outside it. -/
theorem Memory.within_write {m : Memory} {n a : Nat} (v : Byte) (h : a < n) (hm : Memory.within n m = true) :
    Memory.within n (Memory.write m a v) = true := by
  induction m with
  | nil =>
    by_cases hv : v = unlistedByte <;> simp [Memory.write, Memory.within, hv, h]
  | cons p rest ih =>
    obtain ⟨b, w⟩ := p
    simp only [Memory.within, Bool.and_eq_true, decide_eq_true_eq] at hm
    simp only [Memory.write]
    split
    · split <;> simp [Memory.within, hm, h]
    · split
      · split <;> simp [Memory.within, hm, h]
      · simp [Memory.within, hm, ih hm.2]

/-- Equal contents are equal data: two canonical memories that read alike are the same list. -/
theorem Memory.eq_of_read_eq {m m' : Memory} {lo : Nat} (hm : Memory.wfFrom lo m = true)
    (hm' : Memory.wfFrom lo m' = true) (h : ∀ a, Memory.read m a = Memory.read m' a) : m = m' := by
  induction m generalizing m' lo with
  | nil =>
    cases m' with
    | nil => rfl
    | cons p rest =>
      simp only [Memory.wfFrom, Bool.and_eq_true, decide_eq_true_eq] at hm'
      have := h p.1
      simp only [Memory.read, if_true] at this
      exact absurd this.symm hm'.1.2
  | cons p rest ih =>
    obtain ⟨a, v⟩ := p
    simp only [Memory.wfFrom, Bool.and_eq_true, decide_eq_true_eq] at hm
    cases m' with
    | nil =>
      have := h a
      simp only [Memory.read, if_true] at this
      exact absurd this hm.1.2
    | cons q rest' =>
      obtain ⟨b, w⟩ := q
      simp only [Memory.wfFrom, Bool.and_eq_true, decide_eq_true_eq] at hm'
      have hab : a = b := by
        rcases Nat.lt_trichotomy a b with hlt | heq | hlt
        · have := h a
          have hne : a ≠ b := by omega
          simp only [Memory.read, if_true, hne, if_false] at this
          rw [Memory.read_below (lo := b + 1) (by omega) hm'.2] at this
          exact absurd this hm.1.2
        · exact heq
        · have := h b
          have hne : b ≠ a := by omega
          simp only [Memory.read, if_true, hne, if_false] at this
          rw [Memory.read_below (lo := a + 1) (by omega) hm.2] at this
          exact absurd this.symm hm'.1.2
      subst hab
      have hvw : v = w := by
        have := h a
        simpa only [Memory.read, if_true] using this
      subst hvw
      have hrest : rest = rest' := by
        refine ih hm.2 hm'.2 (fun c => ?_)
        by_cases hc : c = a
        · subst hc
          rw [Memory.read_below (by omega) hm.2, Memory.read_below (by omega) hm'.2]
        · have := h c
          simpa only [Memory.read, hc, if_false] using this
      rw [hrest]

/-! ### Several bytes -/

@[simp] theorem Memory.readBytes_length (m : Memory) (a n : Nat) : (Memory.readBytes m a n).length = n := by
  induction n generalizing a with
  | zero => rfl
  | succ n ih => simp [Memory.readBytes, ih]

theorem Memory.wf_writeBytes {m : Memory} (a : Nat) (bs : List Byte) (hm : Memory.wf m = true) :
    Memory.wf (Memory.writeBytes m a bs) = true := by
  induction bs generalizing m a with
  | nil => exact hm
  | cons b bs ih => exact ih (a + 1) (Memory.wf_write a b hm)

theorem Memory.within_writeBytes {m : Memory} {n : Nat} (a : Nat) (bs : List Byte) (h : a + bs.length ≤ n)
    (hm : Memory.within n m = true) : Memory.within n (Memory.writeBytes m a bs) = true := by
  induction bs generalizing m a with
  | nil => exact hm
  | cons b bs ih =>
    simp only [List.length_cons] at h
    exact ih (a + 1) (by omega) (Memory.within_write b (by omega) hm)

theorem Memory.read_writeBytes_outside (m : Memory) (a : Nat) (bs : List Byte) {c : Nat}
    (h : c < a ∨ a + bs.length ≤ c) : Memory.read (Memory.writeBytes m a bs) c = Memory.read m c := by
  induction bs generalizing m a with
  | nil => rfl
  | cons b bs ih =>
    simp only [List.length_cons] at h
    rw [Memory.writeBytes, ih _ _ (by omega), Memory.read_write_other _ _ (by omega)]

theorem Memory.readBytes_writeBytes {m : Memory} (a : Nat) (bs : List Byte) (hm : Memory.wf m = true) :
    Memory.readBytes (Memory.writeBytes m a bs) a bs.length = bs := by
  induction bs generalizing m a with
  | nil => rfl
  | cons b bs ih =>
    simp only [List.length_cons, Memory.readBytes, Memory.writeBytes]
    rw [ih (a + 1) (Memory.wf_write a b hm), Memory.read_writeBytes_outside _ _ _ (Or.inl (by omega)),
      Memory.read_write_same a b hm]

/-! ### Words -/

@[simp] theorem leBytes_length (v : Word) : (leBytes v).length = 4 := rfl

/-- 20_memory.md R56: the bytes of a word, put together again, are the word. -/
@[simp] theorem leWord_bytes (v : Word) :
    leWord (v.extractLsb' 0 8) (v.extractLsb' 8 8) (v.extractLsb' 16 8) (v.extractLsb' 24 8) = v := by
  apply BitVec.eq_of_getLsbD_eq
  intro i hi
  unfold leWord
  simp only [BitVec.getLsbD_append, BitVec.getLsbD_extractLsb']
  by_cases h1 : i < 8
  · simp [h1]
  · by_cases h2 : i - 8 < 8
    · simp [h1, h2, show 8 + (i - 8) = i by omega]
    · by_cases h3 : i - 8 - 8 < 8
      · simp [h1, h2, h3, show 16 + (i - 8 - 8) = i by omega]
      · simp [h1, h2, h3, show 24 + (i - 8 - 8 - 8) = i by omega]
        omega

theorem Memory.wf_writeWord {m : Memory} (a : Nat) (v : Word) (hm : Memory.wf m = true) :
    Memory.wf (Memory.writeWord m a v) = true :=
  Memory.wf_writeBytes a (leBytes v) hm

theorem Memory.within_writeWord {m : Memory} {n : Nat} (a : Nat) (v : Word) (h : a + 4 ≤ n)
    (hm : Memory.within n m = true) : Memory.within n (Memory.writeWord m a v) = true :=
  Memory.within_writeBytes a (leBytes v) h hm

theorem Memory.read_writeWord_outside (m : Memory) (a : Nat) (v : Word) {c : Nat} (h : c < a ∨ a + 4 ≤ c) :
    Memory.read (Memory.writeWord m a v) c = Memory.read m c :=
  Memory.read_writeBytes_outside m a (leBytes v) h

/-- The four bytes a word write leaves, least significant first. -/
theorem Memory.read_writeWord_bytes {m : Memory} (a : Nat) (v : Word) (hm : Memory.wf m = true) :
    Memory.read (Memory.writeWord m a v) a = v.extractLsb' 0 8 ∧
      Memory.read (Memory.writeWord m a v) (a + 1) = v.extractLsb' 8 8 ∧
      Memory.read (Memory.writeWord m a v) (a + 2) = v.extractLsb' 16 8 ∧
      Memory.read (Memory.writeWord m a v) (a + 3) = v.extractLsb' 24 8 := by
  have h := Memory.readBytes_writeBytes a (leBytes v) hm
  simp only [leBytes, List.length_cons, List.length_nil, Memory.readBytes, List.cons.injEq, and_true] at h
  exact h

theorem Memory.readWord_writeWord {m : Memory} (a : Nat) (v : Word) (hm : Memory.wf m = true) :
    Memory.readWord (Memory.writeWord m a v) a = v := by
  obtain ⟨h0, h1, h2, h3⟩ := Memory.read_writeWord_bytes a v hm
  rw [Memory.readWord, h0, h1, h2, h3, leWord_bytes]

/-- A word reads the same in two memories that agree on its bytes. -/
theorem Memory.readWord_congr {m m' : Memory} {a : Nat}
    (h : ∀ c, a ≤ c → c < a + 4 → Memory.read m c = Memory.read m' c) :
    Memory.readWord m a = Memory.readWord m' a := by
  rw [Memory.readWord, Memory.readWord, h a (by omega) (by omega), h (a + 1) (by omega) (by omega),
    h (a + 2) (by omega) (by omega), h (a + 3) (by omega) (by omega)]

end Sys2Proof.Machine
end

