-- ==== Sys2Proof/Laws/Ops.lean ====
section
/-! SUPPORT. One lemma per shared operation that says all it can do. -/

namespace Sys2Proof.Machine

/-! ### Accesses -/

theorem memRead1_ok {a : Nat} {s : State} {r : Byte × State} :
    memRead1 a s = .ok r ↔
      a < s.cfg.shmSize ∧ r = (Memory.read s.window a, record (.memRd .engine a 1 (Memory.read s.window a).toNat) s) := by
  unfold memRead1
  split <;> simp_all [eq_comm]

theorem memWrite1_ok {a : Nat} {v : Byte} {s t : State} :
    memWrite1 a v s = .ok t ↔
      a < s.cfg.shmSize ∧ t = record (.memWr .engine a 1 v.toNat) { s with window := Memory.write s.window a v } := by
  unfold memWrite1
  split <;> simp_all [eq_comm]

theorem memRead4_ok {a : Nat} {s : State} {r : Word × State} :
    memRead4 a s = .ok r ↔
      a % 4 = 0 ∧ a + 4 ≤ s.cfg.shmSize ∧
        r = (Memory.readWord s.window a, record (.memRd .engine a 4 (Memory.readWord s.window a).toNat) s) := by
  unfold memRead4
  split
  · simp_all
  · split <;> simp_all [eq_comm]

theorem memWrite4_ok {a : Nat} {v : Word} {s t : State} :
    memWrite4 a v s = .ok t ↔
      a % 4 = 0 ∧ a + 4 ≤ s.cfg.shmSize ∧
        t = record (.memWr .engine a 4 v.toNat) { s with window := Memory.writeWord s.window a v } := by
  unfold memWrite4
  split
  · simp_all
  · split <;> simp_all [eq_comm]

theorem hostRead1_ok {a : Nat} {s : State} {r : Byte × State} :
    hostRead1 a s = .ok r ↔
      a < 2 ^ s.cfg.hostAddrW ∧
        r = (Memory.read s.hostMem a, record (.hostRd .engine a (Memory.read s.hostMem a).toNat) s) := by
  unfold hostRead1
  split <;> simp_all [eq_comm]

theorem hostWrite1_ok {a : Nat} {v : Byte} {s t : State} :
    hostWrite1 a v s = .ok t ↔
      a < 2 ^ s.cfg.hostAddrW ∧ t = record (.hostWr .engine a v.toNat) { s with hostMem := Memory.write s.hostMem a v } := by
  unfold hostWrite1
  split <;> simp_all [eq_comm]

/-! ### Control -/

@[simp] theorem onOk_ok {α : Type} (a : α) (k : α → Result) : onOk (.ok a) k = k a := rfl

@[simp] theorem onOk_error {α : Type} (f : Fault) (k : α → Result) : onOk (.error f) k = .fault f := rfl

theorem onOk_next {α : Type} {r : Except Fault α} {k : α → Result} {t : State} :
    onOk r k = .next t ↔ ∃ a, r = .ok a ∧ k a = .next t := by
  cases r <;> simp [onOk]

/-- The three ends of a poll tick: the condition, the last failed check, one check fewer. -/
theorem pollTick_cases (c : Bool) (hit out : State → Result) (s : State) :
    (c = true ∧ pollTick c hit out s = hit s) ∨
      (c = false ∧ s.pollLeft = 1#32 ∧ pollTick c hit out s = out { s with pollLeft := 0#32 }) ∨
      (c = false ∧ s.pollLeft ≠ 1#32 ∧ pollTick c hit out s = .next { s with pollLeft := s.pollLeft - 1#32 }) := by
  cases c with
  | true => exact Or.inl ⟨rfl, rfl⟩
  | false =>
    by_cases h : s.pollLeft = 1#32
    · exact Or.inr (Or.inl ⟨rfl, h, by simp [pollTick, h]⟩)
    · refine Or.inr (Or.inr ⟨rfl, h, ?_⟩)
      have h0 : s.pollLeft - 1#32 ≠ 0#32 := by
        intro e
        exact h (by bv_omega)
      simp [pollTick, h0]

/-- A unit that would access a memory or a mailbox is held, or has the port. -/
theorem commandAccess_cases (s : State) (k : State → Result) :
    (s.lock = .continuation ∧ commandAccess s k = .next s) ∨
      (s.lock ≠ .continuation ∧ commandAccess s k = k { s with lock := .command }) := by
  unfold commandAccess
  by_cases h : s.lock = .continuation
  · exact Or.inl ⟨h, if_pos h⟩
  · exact Or.inr ⟨h, if_neg h⟩

@[simp] theorem dropCommand_ne_command (l : PortLock) : l.dropCommand ≠ .command := by
  cases l <;> decide

@[simp] theorem dropCommand_eq_continuation (l : PortLock) : l.dropCommand = .continuation ↔ l = .continuation := by
  cases l <;> decide

/-- The lock after it is released: free unless the Continuation unit has it. -/
theorem dropCommand_eq (l : PortLock) : l.dropCommand = if l = .continuation then .continuation else .free := by
  cases l <;> decide

/-- 41_download.md R88: what one access of FrameTransfer can do. -/
theorem frameAccess_cases {p : FramePos} {s : State} {r : Option FramePos × State} (h : frameAccess p s = .ok r) :
    (∃ i, p = .byte i ∧ i < s.cur.frame.toNat ∧ byteAddr s.cur.src i < 2 ^ s.cfg.hostAddrW ∧
      r = (some (.put i (Memory.read s.hostMem (byteAddr s.cur.src i))),
        record (.hostRd .engine (byteAddr s.cur.src i) (Memory.read s.hostMem (byteAddr s.cur.src i)).toNat) s)) ∨
    (∃ i, p = .byte i ∧ s.cur.frame.toNat ≤ i ∧
      r = (some .tag, record (.memWr .engine s.map.size.toNat 4 s.cur.frame.toNat)
        { s with window := Memory.writeWord s.window s.map.size.toNat s.cur.frame })) ∨
    (∃ i b, p = .put i b ∧ byteAddr s.map.buf i < s.cfg.shmSize ∧
      r = (some (.byte (i + 1)), record (.memWr .engine (byteAddr s.map.buf i) 1 b.toNat)
        { s with window := Memory.write s.window (byteAddr s.map.buf i) b })) ∨
    (p = .tag ∧ r = (some .count, record (.memWr .engine s.map.tag.toNat 4 s.cur.tag.toNat)
      { s with window := Memory.writeWord s.window s.map.tag.toNat s.cur.tag })) ∨
    (p = .count ∧ r = (some .send, record (.memWr .engine s.map.count.toNat 4 s.cur.count.toNat)
      { s with window := Memory.writeWord s.window s.map.count.toNat s.cur.count })) ∨
    (p = .send ∧ r = (none, send s.cfg.codeFrameSent s)) := by
  cases p with
  | byte i =>
    simp only [frameAccess] at h
    split at h
    · rename_i hi
      split at h
      · rename_i b t hb
        obtain ⟨h1, h2⟩ := hostRead1_ok.1 hb
        cases h2
        cases h
        exact Or.inl ⟨i, rfl, hi, h1, rfl⟩
      · cases h
    · split at h
      · rename_i hi t ht
        obtain ⟨-, -, rfl⟩ := memWrite4_ok.1 ht
        cases h
        exact Or.inr (Or.inl ⟨i, rfl, by omega, rfl⟩)
      · cases h
  | put i b =>
    simp only [frameAccess] at h
    split at h
    · rename_i t ht
      obtain ⟨h1, rfl⟩ := memWrite1_ok.1 ht
      cases h
      exact Or.inr (Or.inr (Or.inl ⟨i, b, rfl, h1, rfl⟩))
    · cases h
  | tag =>
    simp only [frameAccess] at h
    split at h
    · rename_i t ht
      obtain ⟨-, -, rfl⟩ := memWrite4_ok.1 ht
      cases h
      exact Or.inr (Or.inr (Or.inr (Or.inl ⟨rfl, rfl⟩)))
    · cases h
  | count =>
    simp only [frameAccess] at h
    split at h
    · rename_i t ht
      obtain ⟨-, -, rfl⟩ := memWrite4_ok.1 ht
      cases h
      exact Or.inr (Or.inr (Or.inr (Or.inr (Or.inl ⟨rfl, rfl⟩))))
    · cases h
  | send =>
    cases h
    exact Or.inr (Or.inr (Or.inr (Or.inr (Or.inr ⟨rfl, rfl⟩))))

/-- FrameTransfer's next access exists when the map fits the window and the frame fits host memory. -/
theorem frameAccess_exists {p : FramePos} {s : State} (hm : FrameMap.Fits s.cfg.shmSize s.cfg.bufCap s.map)
    (hp : framePosOk s.cfg.bufCap p = true) (hs : s.cur.src.toNat + s.cur.frame.toNat ≤ 2 ^ s.cfg.hostAddrW) :
    ∃ r, frameAccess p s = .ok r := by
  obtain ⟨⟨hs4, ht4, hc4⟩, ⟨hsz, htg, hct, hbf⟩, -⟩ := hm
  cases p with
  | byte i =>
    by_cases hi : i < s.cur.frame.toNat
    · simp [frameAccess, hi, hostRead1, byteAddr_lt_host hs hi]
    · simp [frameAccess, hi, memWrite4, hs4, hsz]
  | put i b =>
    simp only [framePosOk, decide_eq_true_eq] at hp
    have ha : byteAddr s.map.buf i < s.cfg.shmSize := by
      rw [byteAddr_eq]
      omega
    simp [frameAccess, memWrite1, ha]
  | tag => simp [frameAccess, memWrite4, ht4, htg]
  | count => simp [frameAccess, memWrite4, hc4, hct]
  | send => exact ⟨_, rfl⟩

/-! ### The step -/

/-- With a turn scheduled, the step is that turn's. -/
theorem step_turn {s : State} {t : Turn} {rest : List Turn} (h : s.agenda = t :: rest) :
    step s = turnStep t { s with agenda := rest } := by
  simp only [step, machineStep, h]

/-- With nothing scheduled, it is the prompt engine step. -/
theorem step_prompt {s : State} (h : s.agenda = []) : step s = promptStep s := by
  simp only [step, machineStep, h]

/-- The prompt step is one unit's step, which a turn of that unit would make too. -/
theorem promptStep_cases (s : State) :
    promptStep s = turnStep .notification s ∨ promptStep s = turnStep .continuation s ∨
      promptStep s = turnStep .command s := by
  unfold promptStep
  split
  · exact Or.inl rfl
  · split
    · exact Or.inr (Or.inl rfl)
    · exact Or.inr (Or.inr rfl)

/-- Every step is the turn `nextTurn` names, taken off the schedule. -/
theorem step_nextTurn (s : State) : step s = turnStep (nextTurn s) { s with agenda := s.agenda.tail } := by
  cases h : s.agenda with
  | cons t rest => simp only [step_turn h, nextTurn, h, List.tail_cons]
  | nil =>
    have hs : { s with agenda := [] } = s := by rw [← h]
    rw [step_prompt h, List.tail_nil, hs]
    simp only [nextTurn, h, promptStep]
    split
    · rfl
    · split <;> rfl

/-- A Command-unit step with BUSY = 1: the word is invalid, is decoded, or runs. -/
theorem commandStep_cases {s : State} (hb : s.busy = true) :
    (currentCommand s = none ∧ commandStep s = .next (finish .invalid s)) ∨
      ∃ i, currentCommand s = some i ∧
        ((s.phase = .decode ∧ commandStep s = .next { s with phase := .start }) ∨
          (s.phase ≠ .decode ∧ commandStep s = exec i s)) := by
  unfold commandStep currentCommand
  rw [if_pos hb]
  cases hv : validCommand s.cfg.toParams s.cmdw with
  | none => exact Or.inl ⟨rfl, rfl⟩
  | some i =>
    refine Or.inr ⟨i, rfl, ?_⟩
    by_cases hp : s.phase = .decode
    · exact Or.inl ⟨hp, by simp [hp]⟩
    · exact Or.inr ⟨hp, by simp [hp]⟩

/-! ### Runs -/

@[simp] theorem runSteps_zero (s : State) : runSteps 0 s = .next s := rfl

theorem runSteps_succ {n : Nat} {s t : State} (h : step s = .next t) : runSteps (n + 1) s = runSteps n t := by
  simp only [runSteps, h]

/-- Two runs in a row. -/
theorem runSteps_add {m n : Nat} {s t : State} (h : runSteps m s = .next t) : runSteps (m + n) s = runSteps n t := by
  induction m generalizing s with
  | zero =>
    cases h
    rw [Nat.zero_add]
  | succ m ih =>
    rw [Nat.succ_add]
    simp only [runSteps] at h ⊢
    split at h
    · exact ih h
    · cases h
    · cases h

/-- The runs of the statements are the host's. -/
theorem runSteps_core (n : Nat) (s : State) : runSteps n s = Host.Core.run Sys2Proof.core n s := by
  induction n generalizing s with
  | zero => rfl
  | succ n ih =>
    simp only [runSteps, Host.Core.run]
    generalize h : step s = r
    have h' : Host.Core.step core s = r := h
    rw [h']
    cases r with
    | next t => exact ih t
    | fault f => rfl
    | refused r => rfl

end Sys2Proof.Machine
end

