-- ==== Sys2Proof/Laws/PerInstr.lean ====
section
/-! SUPPORT. Per-constructor facts about the commands as words (30_encoding.md R72 to R74). -/

namespace Sys2Proof

/-- R72, R73: the fields of a command's encoding are its OPCODE, its DIR and zeros, and only MAP_BOOT has a DIR. -/
def Laws.EncodedFields.Statement (i : Instr) : Prop :=
  opcodeField (encode i) = i.opcode ∧ dirField (encode i) = i.dirBit ∧ reservedField (encode i) = 0#23 ∧
    (i.dirBit = 1#1 → i.opcode = 0x01#8)

theorem Laws.EncodedFields.mapBoot (dir : Direction) : Laws.EncodedFields.Statement (.mapBoot dir) := by
  unfold Laws.EncodedFields.Statement
  cases dir <;> decide

theorem Laws.EncodedFields.mapDl : Laws.EncodedFields.Statement .mapDl := by
  unfold Laws.EncodedFields.Statement
  decide

theorem Laws.EncodedFields.setMagic : Laws.EncodedFields.Statement .setMagic := by
  unfold Laws.EncodedFields.Statement
  decide

theorem Laws.EncodedFields.prepare : Laws.EncodedFields.Statement .prepare := by
  unfold Laws.EncodedFields.Statement
  decide

theorem Laws.EncodedFields.loadBin : Laws.EncodedFields.Statement .loadBin := by
  unfold Laws.EncodedFields.Statement
  decide

theorem Laws.EncodedFields.loadNv : Laws.EncodedFields.Statement .loadNv := by
  unfold Laws.EncodedFields.Statement
  decide

theorem Laws.EncodedFields.xmit : Laws.EncodedFields.Statement .xmit := by
  unfold Laws.EncodedFields.Statement
  decide

theorem Laws.EncodedFields.ulStep1 : Laws.EncodedFields.Statement .ulStep1 := by
  unfold Laws.EncodedFields.Statement
  decide

theorem Laws.EncodedFields.ulStep2 : Laws.EncodedFields.Statement .ulStep2 := by
  unfold Laws.EncodedFields.Statement
  decide

theorem Laws.EncodedFields.bootStart : Laws.EncodedFields.Statement .bootStart := by
  unfold Laws.EncodedFields.Statement
  decide

theorem Laws.EncodedFields.cpStart : Laws.EncodedFields.Statement .cpStart := by
  unfold Laws.EncodedFields.Statement
  decide

theorem Laws.EncodedFields.crashLog : Laws.EncodedFields.Statement .crashLog := by
  unfold Laws.EncodedFields.Statement
  decide

end Sys2Proof
end

