-- ==== Sys2Proof/Tests/Slice0.lean ====
section
/-! SUPPORT. Tests. Expected values come from 95_test_vectors.md (the vector is named) or from the rule named; after them,
for every statement of Obligations.lean with hypotheses, a concrete state that meets them. -/

namespace Sys2Proof.Tests

open Sys2Proof.Machine

/-! ### WellFormed: each check refuses an ill-formed configuration (00_scope.md R8, R9) -/

theorem test_wf_accepts_ex : Params.ex.wf = true := by decide

theorem test_wf_refuses_empty_window : Params.rangesOk { Params.ex with shmSize := 0 } = false := by decide

theorem test_wf_refuses_zero_budget : Params.wf { Params.ex with nPrepare := 0#32 } = false := by decide

theorem test_wf_refuses_misaligned_field : Params.fieldsOk { Params.ex with offTag := 0x0015#32 } = false := by decide

theorem test_wf_refuses_field_past_window : Params.fieldsOk { Params.ex with hdrBufoffOff := 0x8000#32 } = false := by
  decide

theorem test_wf_refuses_buffer_past_window : Params.buffersOk { Params.ex with dlmapOffBuf := 0x7001#32 } = false := by
  decide

theorem test_wf_refuses_overlap : Params.mapsApart { Params.ex with offSize := 0x0100#32 } = false := by decide

theorem test_wf_refuses_crash_past_window : Params.crashOk { Params.ex with crashRxOff := 0x7F01#32 } = false := by decide

theorem test_wf_refuses_equal_codes : Params.codesOk { Params.ex with codeBooting := 0x0A02#16 } = false := by decide

theorem test_wf_refuses_code_9999 : Params.codesOk { Params.ex with codeDlReady := 0x9999#16 } = false := by decide

theorem test_wf_refuses_equal_tags : Params.tagsOk { Params.ex with tagNv := 1#32 } = false := by decide

/-- V11: without F_DL_MAP, MAP_DL is no command. -/
theorem test_wf_refuses_absent_command : Instr.present { Params.ex with fDlMap := false } .mapDl = false := by decide

/-! ### Decoding: each row's word, written from `CMD[31:9] = 0`, DIR and the OPCODE of 30_encoding.md R74 -/

theorem test_decode_mapBoot_dl : decode 0b00000000000000000000000000000001#32 = .ok (.mapBoot .download) := by decide
theorem test_decode_mapBoot_ul : decode 0b00000000000000000000000100000001#32 = .ok (.mapBoot .upload) := by decide
theorem test_decode_mapDl : decode 0b00000000000000000000000000000010#32 = .ok .mapDl := by decide
theorem test_decode_setMagic : decode 0b00000000000000000000000000000011#32 = .ok .setMagic := by decide
theorem test_decode_prepare : decode 0b00000000000000000000000000010000#32 = .ok .prepare := by decide
theorem test_decode_loadBin : decode 0b00000000000000000000000000010001#32 = .ok .loadBin := by decide
theorem test_decode_loadNv : decode 0b00000000000000000000000000010010#32 = .ok .loadNv := by decide
theorem test_decode_xmit : decode 0b00000000000000000000000000010011#32 = .ok .xmit := by decide
theorem test_decode_ulStep1 : decode 0b00000000000000000000000000100000#32 = .ok .ulStep1 := by decide
theorem test_decode_ulStep2 : decode 0b00000000000000000000000000100001#32 = .ok .ulStep2 := by decide
theorem test_decode_bootStart : decode 0b00000000000000000000000000110000#32 = .ok .bootStart := by decide
theorem test_decode_cpStart : decode 0b00000000000000000000000000110001#32 = .ok .cpStart := by decide
theorem test_decode_crashLog : decode 0b00000000000000000000000001000000#32 = .ok .crashLog := by decide

/-- V7 to V10: words that are no command. -/
theorem test_decode_rejects :
    decode 0x00000000#32 = .error .unassignedOpcode ∧ decode 0x00000103#32 = .error .directionBit ∧
      decode 0x80000101#32 = .error .reservedBits ∧ decode 0x000000FF#32 = .error .unassignedOpcode := by decide

/-- The host's question on a table word, and on one with a bit above the command's 32. -/
theorem test_decodeTableWord :
    decodeTableWord 32 0x101 = some (.mapBoot .upload) ∧ decodeTableWord 40 0x100000101 = none := by decide

/-! ### One step of each command -/

/-- A state whose Command unit has accepted `w` and is in phase `ph`. -/
def running (w : Word) (ph : Phase) (s : State) : State := { accept w s with phase := ph }

/-- A state with the operand registers of a transfer written. -/
def operands (src total cap count : Nat) (s : State) : State :=
  { s with
    opnd :=
      { src := BitVec.ofNat 32 src
        total := BitVec.ofNat 32 total
        cap := BitVec.ofNat 32 cap
        count := BitVec.ofNat 32 count
        ulDst := 0x90000000#32
        ulLen := 0x1000#32
        crashDst := 0x91000000#32 } }

/-- Whether a step answers a next state with a property. -/
def nextHas (r : Result) (p : State → Bool) : Bool :=
  match r with
  | .next t => p t
  | .fault _ => false
  | .refused _ => false

/-- V23. -/
theorem test_mapBoot_ul :
    nextHas (exec (.mapBoot .upload) (running 0x101#32 .start State.reset)) (fun t =>
      decide (t.map = { buf := 0x4100#32, size := 0x4010#32, tag := 0x4014#32, count := 0x4018#32 } ∧
        readReg t .mapInfo = 1#32 ∧ readReg t .result = 0x00000101#32)) = true := by decide

/-- V24. -/
theorem test_mapBoot_dl :
    nextHas (exec (.mapBoot .download) (running 0x1#32 .start State.reset)) (fun t =>
      decide (t.map = { buf := 0x0100#32, size := 0x0010#32, tag := 0x0014#32, count := 0x0018#32 } ∧
        readReg t .mapInfo = 0#32 ∧ readReg t .result = 0x00000101#32)) = true := by decide

/-- V25. -/
theorem test_mapDl :
    nextHas (exec .mapDl (running 0x2#32 .start State.reset)) (fun t =>
      decide (t.map = { buf := 0x2100#32, size := 0x2000#32, tag := 0x2004#32, count := 0x2008#32 } ∧
        readReg t .mapInfo = 2#32 ∧ readReg t .result = 0x00000201#32)) = true := by decide

/-- V26: the bytes in the window, least significant first. -/
theorem test_setMagic :
    nextHas (exec .setMagic (running 0x3#32 .start State.reset)) (fun t =>
      decide (Memory.readBytes t.window 0 8 = [0x55#8, 0x55#8, 0xAA#8, 0xAA#8, 0#8, 0#8, 0#8, 0#8] ∧
        readReg t .result = 0x00000301#32 ∧ t.peerIrq = false)) = true := by decide

/-- V3, START: DL_STATE 1 and the full budget. -/
theorem test_prepare_start :
    nextHas (exec .prepare (running 0x10#32 .start State.reset)) (fun t =>
      decide (readReg t .status = 0x10000101#32 ∧ readReg t .pollLeft = 1000#32)) = true := by decide

/-- V28, tick 4: the latch is consumed, POLL_LEFT stays. -/
theorem test_prepare_hit :
    nextHas (exec .prepare { running 0x10#32 .wait State.reset with copyStarted := true, pollLeft := 997#32 })
      (fun t =>
        decide (readReg t .status = 0x00000200#32 ∧ readReg t .pollLeft = 997#32 ∧
          readReg t .result = 0x00001001#32)) = true := by decide

/-- V1, SETUP. -/
theorem test_loadBin_setup :
    nextHas (exec .loadBin
        { running 0x11#32 .start (operands 0x80000000 4096 1024 0 State.reset) with dlState := .peerReady })
      (fun t =>
        decide (t.prog = { total := 4096#32, remain := 4096#32, sent := 0#32 } ∧
          t.cur = { src := 0x80000000#32, frame := 1024#32, tag := 1#32, count := 0#32 } ∧
          t.dlState = .transferring)) = true := by decide

/-- V42: the cap check comes before NOMEM. -/
theorem test_loadBin_order :
    nextHas (exec .loadBin
        { running 0x11#32 .start (operands 0x80000000 0x100001 0 0 State.reset) with dlState := .peerReady })
      (fun t => decide (readReg t .result = 0x00001105#32)) = true := by decide

/-- V47: NV counts from 1 whatever XFER_COUNT is. -/
theorem test_loadNv_setup :
    nextHas (exec .loadNv
        { running 0x12#32 .start (operands 0x80100000 2500 1024 9 State.reset) with dlState := .peerReady })
      (fun t =>
        decide (t.cur = { src := 0x80100000#32, frame := 1024#32, tag := 2#32, count := 1#32 })) = true := by decide

/-- V52: the last failed tick. -/
theorem test_loadNv_timeout :
    nextHas (exec .loadNv
        { running 0x12#32 .wait State.reset with
          dlState := .transferring
          prog := { total := 1024#32, remain := 1024#32, sent := 0#32 }
          cur := { src := 0#32, frame := 1024#32, tag := 2#32, count := 1#32 }
          pollLeft := 1#32 })
      (fun t =>
        decide (readReg t .result = 0x00001202#32 ∧ t.dlState = .timeoutFailed ∧ t.cur.tag = 0#32 ∧
          t.pollLeft = 0#32)) = true := by decide

/-- V59, the Send. -/
theorem test_xmit_send :
    nextHas (exec .xmit (running 0x13#32 (.xmit .send) (operands 0x80200000 16 0 0 State.reset))) (fun t =>
      decide (readReg t .mbxOutView = 0x00010C02#32 ∧ readReg t .result = 0x00001301#32 ∧
        t.dlState = .idle)) = true := by decide

/-- V62. -/
theorem test_xmit_range :
    nextHas (exec .xmit (running 0x13#32 .start (operands 0xFFFFFFF0 0x11 0 0 State.reset))) (fun t =>
      decide (readReg t .result = 0x00001305#32)) = true := by decide

/-- V65: a wrong code is consumed. -/
theorem test_ulStep1_mismatch :
    nextHas (exec .ulStep1
        { running 0x20#32 .poll State.reset with
          notifyEn := false
          ulState := .handshake
          pend := true
          mbxIn := 0x0A01#16
          pollLeft := 200#32 })
      (fun t =>
        decide (readReg t .result = 0x00002003#32 ∧ t.notifyEn = true ∧ t.ulState = .timeoutFailed ∧
          t.pend = false)) = true := by decide

/-- V67: the last-chance read matches a stale code. -/
theorem test_ulStep1_lastChance :
    nextHas (exec .ulStep1 { running 0x20#32 .lastChance State.reset with notifyEn := false, mbxIn := 0x0B01#16 })
      (fun t => decide (t.phase = .success ∧ t.pend = false)) = true := by decide

/-- V74: a frame larger than UL_DST_LEN. -/
theorem test_ulStep2_too_long :
    nextHas (exec .ulStep2
        { running 0x21#32 (.upload (.count 0x1001#32 1#32)) (operands 0 0 0 0 State.reset) with
          lock := .command
          ulState := .frameLoop
          notifyEn := false })
      (fun t =>
        decide (readReg t .result = 0x00002105#32 ∧ t.ulLast.size = 0x1001#32 ∧ t.notifyEn = true ∧
          t.ulState = .timeoutFailed)) = true := by decide

/-- V71, the end: the terminating tag. -/
theorem test_ulStep2_end :
    nextHas (exec .ulStep2
        { running 0x21#32 (.upload (.byte 256#32 0xFF#32 256)) State.reset with
          lock := .command
          ulState := .frameLoop
          notifyEn := false })
      (fun t =>
        decide (readReg t .result = 0x00002101#32 ∧ t.ulState = .done ∧ t.notifyEn = true ∧
          t.mbxOut = 0x0D02#16)) = true := by decide

/-- V89, tick 1. -/
theorem test_bootStart_hit :
    nextHas (exec .bootStart { running 0x30#32 .wait State.reset with bootComplete := true, pollLeft := 200#32 })
      (fun t =>
        decide (readReg t .status = 0x00020000#32 ∧ readReg t .pollLeft = 200#32 ∧
          readReg t .result = 0x00003001#32)) = true := by decide

/-- V90, tick 200. -/
theorem test_bootStart_timeout :
    nextHas (exec .bootStart { running 0x30#32 .wait State.reset with pollLeft := 1#32 }) (fun t =>
      decide (readReg t .status = 0x00040000#32 ∧ readReg t .result = 0x00003002#32)) = true := by decide

/-- V86: an unread code is overwritten. -/
theorem test_cpStart :
    nextHas (exec .cpStart { running 0x31#32 .start State.reset with peerIrq := true, mbxOut := 0x0C03#16 }) (fun t =>
      decide (readReg t .mbxOutView = 0x00010C04#32 ∧ readReg t .result = 0x00003101#32 ∧
        .outOverwritten 0x0C03#16 ∈ t.history)) = true := by decide

/-- V96: one byte past the top, and exactly to the top. -/
theorem test_crashLog_check :
    nextHas (exec .crashLog
        (running 0x40#32 .start { State.reset with opnd := { Operands.zero with crashDst := 0xFFFFFF01#32 } }))
      (fun t => decide (readReg t .result = 0x00004005#32)) = true ∧
    nextHas (exec .crashLog
        (running 0x40#32 .start { State.reset with opnd := { Operands.zero with crashDst := 0xFFFFFF00#32 } }))
      (fun t => decide (t.phase = .crash (.byte 0) ∧ t.busy = true)) = true := by decide

/-- EX with CRASH_LEN 0 (V98). -/
def noCrash : Config where
  toParams := { Params.ex with crashLen := 0 }
  valid := by decide

/-- V98. -/
theorem test_crashLog_empty :
    nextHas (exec .crashLog (running 0x40#32 (.crash (.byte 0)) (State.powerOn noCrash [] [] []))) (fun t =>
      decide (readReg t .result = 0x00004001#32)) = true := by decide

/-! ### Shared operations -/

/-- 00_scope.md R10, R16: a host address past 2^32 does not wrap. -/
theorem test_byteAddr_no_wrap : byteAddr 0xFFFFFFFF#32 1 = 0x100000000 := by decide

/-! ### Steps of the other units -/

/-- V1, ack 1: the registers the per-frame step advances. -/
theorem test_frameAck :
    nextHas (continuationStep
        { running 0x11#32 .wait State.reset with
          dlState := .transferring
          contPending := true
          prog := { total := 4096#32, remain := 4096#32, sent := 0#32 }
          cur := { src := 0x80000000#32, frame := 1024#32, tag := 1#32, count := 0#32 } })
      (fun t =>
        decide (t.cur = { src := 0x80000400#32, frame := 1024#32, tag := 1#32, count := 1#32 } ∧
          t.prog = { total := 4096#32, remain := 3072#32, sent := 1024#32 })) = true := by decide

/-- V4: an unrecognized code. -/
theorem test_unrecognized :
    decide (readReg (notificationStep { State.reset with pend := true, mbxIn := 0x9999#16, irqStatus := 3#4 })
        .lastUnrecog = 0x00019999#32 ∧
      readReg (notificationStep { State.reset with pend := true, mbxIn := 0x9999#16, irqStatus := 3#4 })
        .irqStatus = 7#32 ∧
      readReg (notificationStep { State.reset with pend := true, mbxIn := 0x9999#16, irqStatus := 3#4 })
        .mbxInView = 0x00009999#32) = true := by decide

/-- V6: the window's registers after reset. -/
theorem test_reset_reads :
    readReg State.reset .caps = 0x0000001F#32 ∧ readReg State.reset .ctrl = 1#32 ∧
      readReg State.reset .status = 0#32 ∧ hostReadValue 0x84 4 State.reset = 0#32 := by decide

/-- V16, V20: write-1-to-clear, and a narrow write. -/
theorem test_host_writes :
    readReg (hostWrite 0x10 4 9#32 { State.reset with irqStatus := 0xB#4 }) .irqStatus = 2#32 ∧
      readReg (hostWrite 0x0C 2 0#32 State.reset) .ctrl = 1#32 := by decide

/-! ### Witnesses: the hypotheses of the statements, met by concrete states -/

/-- A state with a schedule. -/
def scheduled (ts : List Turn) (s : State) : State := { s with agenda := ts }

/-- A LOAD_BIN of three bytes in frames of two, set up, in phase `ph`. -/
def loading (ph : Phase) : State :=
  { loadSetup .bin { running 0x11#32 .start (operands 0xFFFFFFFD 3 2 7 State.reset) with dlState := .peerReady } with
    phase := ph }

/-- A host byte a frame can carry. -/
def withHostBytes (s : State) : State := { s with hostMem := [(0xFFFFFFFD, 5#8), (0xFFFFFFFE, 6#8)] }

theorem witness_CommandTurnRunsTheDecodedCommand_decode :
    (scheduled [.command] (running 0x10#32 .decode State.reset)).agenda = .command :: [] ∧
      (running 0x10#32 .decode State.reset).busy = true ∧
      validCommand Config.ex.toParams (running 0x10#32 .decode State.reset).cmdw = some .prepare ∧
      (running 0x10#32 .decode State.reset).phase = .decode := by decide

theorem witness_CommandTurnRunsTheDecodedCommand_run :
    (scheduled [.command] (running 0x31#32 .start State.reset)).busy = true ∧
      validCommand Config.ex.toParams (running 0x31#32 .start State.reset).cmdw = some .cpStart ∧
      (running 0x31#32 .start State.reset).phase ≠ .decode := by decide

theorem witness_CommandTurnRunsTheDecodedCommand_idle :
    (scheduled [.command] State.reset).agenda = .command :: [] ∧ (scheduled [.command] State.reset).busy = false := by
  decide

theorem witness_AcceptanceSamplesTheOperands :
    (scheduled [.hostWrite 0x00 4 0x11#32] State.reset).agenda = .hostWrite 0x00 4 0x11#32 :: [] ∧
      (scheduled [.hostWrite 0x00 4 0x11#32] State.reset).busy = false := by decide

theorem witness_InvalidWordCompletesInvalid :
    (scheduled [.command] (running 0x103#32 .decode State.reset)).agenda = .command :: [] ∧
      (running 0x103#32 .decode State.reset).busy = true ∧
      validCommand Config.ex.toParams (running 0x103#32 .decode State.reset).cmdw = none := by decide

/-- A step that completes a command, for the statements about every step: ResultIsWrittenOnlyAtCompletion,
ResultsAreTheTabledOnes, EveryAcceptanceHasOneCompletion, OneEngineAccessPerStep. -/
theorem witness_completing_step :
    ∃ s t : State, s.agenda = .command :: [] ∧ s.busy = true ∧
      validCommand s.cfg.toParams s.cmdw = some .cpStart ∧ HistoryBalanced s ∧ step s = .next t ∧ t.busy = false ∧
      s.agenda.head? ≠ some .reset :=
  ⟨scheduled [.command] (running 0x31#32 .start State.reset), _, rfl, rfl, by decide, by unfold HistoryBalanced; decide, rfl,
    rfl, by decide⟩

/-- A reset turn: ResetSetsEveryRegister and the reset clause of the statements about every step. -/
theorem witness_reset_step :
    ∃ s t : State, s.agenda = .reset :: [] ∧ s.busy = true ∧ step s = .next t ∧ t.busy = false :=
  ⟨scheduled [.reset] (running 0x10#32 .wait State.reset), _, rfl, rfl, rfl, rfl⟩

theorem witness_HeldUnitsWait :
    ({ running 0x3#32 .start State.reset with lock := .continuation } : State).lock = .continuation ∧
      (running 0x30#32 .start State.reset).phase = .start ∧
      (running 0x11#32 (.frame (.byte 0)) State.reset).phase = .frame (.byte 0) ∧
      (running 0x13#32 (.xmit (.byte 0)) State.reset).phase = .xmit (.byte 0) ∧
      (running 0x20#32 .success State.reset).phase = .success ∧
      (running 0x21#32 (.upload .size) State.reset).phase = .upload .size ∧
      (running 0x40#32 (.crash (.put 0 5#8)) State.reset).phase = .crash (.put 0 5#8) ∧
      (running 0x40#32 (.crash (.byte 255)) State.reset).phase = .crash (.byte 255) ∧ 255 < Config.ex.crashLen ∧
      ({ scheduled [.continuation] State.reset with lock := .command } : State).agenda = .continuation :: [] := by decide

theorem witness_InvariantAtReset :
    Memory.wf [(0x7FFF, 1#8)] = true ∧ Memory.wf [(0xFFFFFFFF, 1#8)] = true ∧
      Memory.within Config.ex.shmSize [(0x7FFF, 1#8)] = true ∧
      Memory.within (2 ^ Config.ex.hostAddrW) [(0xFFFFFFFF, 1#8)] = true := by decide

/-- A step from a state of the invariant: StepKeepsTheInvariant, InvariantStatesStepSafely, ProgressAlwaysAddsUp. The state
is inside FrameTransfer, so the invariant's parts about it are not idle. -/
theorem witness_StepKeepsTheInvariant :
    ∃ s t : State, Invariant s ∧ s.dlState = .transferring ∧ step s = .next t :=
  ⟨scheduled [.command] (loading (.frame (.byte 0))), _, by decide, rfl, rfl⟩

/-- A step that changes the map. -/
theorem witness_OnlyMapCommandsChangeTheMap :
    ∃ s t : State, step s = .next t ∧ t.mapDir ≠ s.mapDir ∧
      validCommand s.cfg.toParams s.cmdw = some (.mapBoot .upload) :=
  ⟨scheduled [.command] (running 0x101#32 .start State.reset), _, rfl, by decide, by decide⟩

/-- Steps that change the progress counters, from states of the invariant: a LOAD's SETUP and the per-frame step. -/
theorem witness_ProgressWriters :
    (∃ s t : State, Invariant s ∧ step s = .next t ∧ t.prog ≠ s.prog ∧ nextTurn s = .command ∧ s.phase = .start) ∧
      ∃ s t : State, Invariant s ∧ step s = .next t ∧ t.prog ≠ s.prog ∧ nextTurn s = .continuation ∧ s.cont = .idle :=
  ⟨⟨scheduled [.command]
        { running 0x11#32 .start (operands 0xFFFFFFFD 3 2 7 State.reset) with dlState := .peerReady }, _, by decide, rfl,
      by decide, rfl, rfl⟩,
    ⟨scheduled [.continuation] { loading .wait with contPending := true, pollLeft := 5#32 }, _, by decide, rfl, by decide,
      rfl, rfl⟩⟩

/-- Steps that set and consume a latch, and a host turn. -/
theorem witness_LatchWriters :
    (∃ s t : State, step s = .next t ∧ nextTurn s = .notification ∧ s.copyStarted = false ∧ t.copyStarted = true) ∧
      (∃ s t : State, step s = .next t ∧ nextTurn s = .command ∧ s.bootComplete = true ∧ t.bootComplete = false) ∧
      ∃ s t : State, step s = .next t ∧ (nextTurn s).ofHost = true :=
  ⟨⟨{ State.reset with pend := true, mbxIn := 0x0A01#16 }, _, rfl, by decide, rfl, rfl⟩,
    ⟨{ scheduled [.command] (running 0x30#32 .wait State.reset) with bootComplete := true }, _, rfl, by decide, rfl,
      rfl⟩,
    ⟨scheduled [.hostWrite 0x04 4 0xFFFFFFFF#32] State.reset, _, rfl, by decide⟩⟩

theorem witness_WritesWhileBusyAreDropped :
    (scheduled [.hostWrite 0x00 4 0x31#32] (running 0x10#32 .wait State.reset)).busy = true ∧
      (scheduled [.hostWrite 0x0C 4 0#32] (running 0x10#32 .wait State.reset)).agenda = .hostWrite 0x0C 4 0#32 :: [] ∧
      (scheduled [.hostWrite 0x0C 4 0xFFFFFFFE#32] State.reset).busy = false := by decide

theorem witness_HostReadsHaveNoSideEffect :
    (scheduled [.hostRead 0x80 4] State.reset).agenda = .hostRead 0x80 4 :: [] ∧ regAt 0x80 = some .caps ∧
      regAt 0x00 = some .cmd ∧
      (scheduled [.hostRead 0x50 4] State.reset).agenda = .hostRead 0x50 4 :: [] ∧
      (scheduled [.hostRead 0x84 4] State.reset).agenda = .hostRead 0x84 4 :: [] ∧
      (scheduled [.hostRead 0x82 4] State.reset).agenda = .hostRead 0x82 4 :: [] ∧ 0x82 % 4 ≠ 0 ∧
      (scheduled [.hostRead 0x80 2] State.reset).agenda = .hostRead 0x80 2 :: [] := by decide

theorem witness_IneffectiveHostWrites :
    (scheduled [.hostWrite 0x18 2 1#32] State.reset).agenda = .hostWrite 0x18 2 1#32 :: [] ∧
      (scheduled [.hostWrite 0x1A 4 1#32] State.reset).agenda = .hostWrite 0x1A 4 1#32 :: [] ∧ 0x1A % 4 ≠ 0 ∧
      (scheduled [.hostWrite 0x04 4 1#32] State.reset).agenda = .hostWrite 0x04 4 1#32 :: [] ∧
      (scheduled [.hostWrite 0x08 4 1#32] State.reset).agenda = .hostWrite 0x08 4 1#32 :: [] ∧
      (scheduled [.hostWrite 0x34 4 1#32] State.reset).agenda = .hostWrite 0x34 4 1#32 :: [] := by decide

theorem witness_OperandWritesLand :
    [0x18, 0x1C, 0x20, 0x24, 0x28, 0x2C, 0x30].map
        (fun off => (scheduled [.hostWrite off 4 0xFFFFFFFF#32] State.reset).agenda) =
      [0x18, 0x1C, 0x20, 0x24, 0x28, 0x2C, 0x30].map (fun off => [.hostWrite off 4 0xFFFFFFFF#32]) := by decide

theorem witness_IrqRegisterWrites :
    (scheduled [.hostWrite 0x10 4 9#32] State.reset).agenda = .hostWrite 0x10 4 9#32 :: [] ∧
      (scheduled [.hostWrite 0x14 4 0xFFFFFFFF#32] State.reset).agenda = .hostWrite 0x14 4 0xFFFFFFFF#32 :: [] := by
  decide

/-- The last word of the window, a misaligned offset, and the first word past the window. -/
theorem witness_WindowWordAccess :
    Memory.wf State.reset.window = true ∧ 0x7FFC % 4 = 0 ∧ 0x7FFC + 4 ≤ State.reset.cfg.shmSize ∧ 0x7FFE % 4 ≠ 0 ∧
      0x8000 % 4 = 0 ∧ State.reset.cfg.shmSize < 0x8000 + 4 := by decide

/-- A peer read and a host store that end at the top of their memories, and ones a byte longer. -/
theorem witness_PeerReadsAndHostStores :
    (scheduled [.peerLoad 0x7FFE 2] State.reset).agenda = .peerLoad 0x7FFE 2 :: [] ∧
      0x7FFE + 2 ≤ State.reset.cfg.shmSize ∧ State.reset.cfg.shmSize < 0x7FFE + 3 ∧
      (scheduled [.hostStore 0xFFFFFFFF [1#8]] State.reset).agenda = .hostStore 0xFFFFFFFF [1#8] :: [] ∧
      Memory.wf State.reset.hostMem = true ∧ 0xFFFFFFFF + [1#8].length ≤ 2 ^ State.reset.cfg.hostAddrW ∧
      2 ^ State.reset.cfg.hostAddrW < 0xFFFFFFFF + [1#8, 2#8].length := by decide

theorem witness_PeerNotifyFillsTheMailbox :
    (scheduled [.peerNotify 0x0A01#16] State.reset).agenda = .peerNotify 0x0A01#16 :: [] := by decide

theorem witness_PeerReadOutLowersTheLine :
    (scheduled [.peerReadOut] State.reset).agenda = .peerReadOut :: [] := by decide

/-- A store that ends at the top of the window, and one a byte longer. -/
theorem witness_PeerStoresExactlyItsBytes :
    (scheduled [.peerStore 0x7FFE [1#8, 2#8]] State.reset).agenda = .peerStore 0x7FFE [1#8, 2#8] :: [] ∧
      Memory.wf State.reset.window = true ∧ 0x7FFE + [1#8, 2#8].length ≤ State.reset.cfg.shmSize ∧
      State.reset.cfg.shmSize < 0x7FFE + [1#8, 2#8, 3#8].length := by decide

theorem witness_NotificationDispatch :
    ({ scheduled [.notification] State.reset with notifyEn := false, pend := true } : State).notifyEn = false ∧
      (scheduled [.notification] State.reset).pend = false ∧
      ({ scheduled [.notification] State.reset with pend := true, mbxIn := 0x0A01#16 } : State).notifyEn = true ∧
      0x0A01#16 = Config.ex.codeDlReady ∧ 0x0A02#16 = Config.ex.codeFrameAck ∧ 0x0A03#16 = Config.ex.codeBooting := by
  decide

theorem witness_UnrecognizedCodeIsDropped :
    ({ scheduled [.notification] State.reset with pend := true, mbxIn := 0x9999#16 } : State).notifyEn = true ∧
      0x9999#16 ≠ Config.ex.codeDlReady ∧ 0x9999#16 ≠ Config.ex.codeFrameAck ∧
      0x9999#16 ≠ Config.ex.codeBooting := by decide

theorem witness_SetMagicWritesTheMagic :
    (running 0x3#32 .start State.reset).lock ≠ .continuation ∧
      Memory.wf (running 0x3#32 .start State.reset).window = true := by decide

theorem witness_PreparePhases :
    (running 0x10#32 .start State.reset).phase = .start ∧
      ({ running 0x10#32 .wait State.reset with copyStarted := true } : State).phase = .wait ∧
      ({ running 0x10#32 .wait State.reset with pollLeft := 2#32 } : State).pollLeft ≠ 1#32 ∧
      ({ running 0x10#32 .wait State.reset with pollLeft := 1#32 } : State).copyStarted = false := by decide

theorem witness_PrepareTimesOutAfterItsBudget :
    ∃ s : State, s.busy = true ∧ validCommand s.cfg.toParams s.cmdw = some .prepare ∧ s.phase = .start ∧
      s.copyStarted = false ∧ s.agenda = List.replicate (s.cfg.nPrepare.toNat + 1) Turn.command ++ [.peerReadOut] :=
  ⟨scheduled (List.replicate (Config.ex.nPrepare.toNat + 1) Turn.command ++ [.peerReadOut])
    (running 0x10#32 .start State.reset), rfl, by decide, rfl, rfl, rfl⟩

/-- A state whose LOAD is about to be checked. -/
def checking (src total cap : Nat) (dl : DlState) : State :=
  { (operands src total cap 0 State.reset) with
    dlState := dl
    ops := (operands src total cap 0 State.reset).opnd
    phase := .start }

/-- V33, V35, V36, V37, V38 and V40. -/
theorem witness_LoadChecksInOrder :
    ((checking 0 1 1 .idle).dlState ≠ .peerReady ∧ (checking 0 1 1 .idle).dlState ≠ .complete) ∧
      ((checking 0 0 1 .complete).dlState = .complete ∧ (checking 0 0 1 .complete).ops.total = 0#32) ∧
      ((checking 0 1 0 .peerReady).ops.total ≠ 0#32 ∧ (checking 0 1 0 .peerReady).ops.cap = 0#32) ∧
      Config.ex.bufCap < (checking 0 1 0x1001 .peerReady).ops.cap.toNat ∧
      2 ^ Config.ex.hostAddrW <
        (checking 0xFFFFFF00 0x101 0x100 .peerReady).ops.src.toNat +
          (checking 0xFFFFFF00 0x101 0x100 .peerReady).ops.total.toNat ∧
      (checking 0x80000000 0x100001 0x400 .peerReady).ops.src.toNat +
          (checking 0x80000000 0x100001 0x400 .peerReady).ops.total.toNat ≤ 2 ^ Config.ex.hostAddrW ∧
      Config.ex.xferBufMax < (checking 0x80000000 0x100001 0x400 .peerReady).ops.total.toNat := by decide

/-- Every bound met exactly: BUF_CAP, the top of host memory (V39) and XFER_BUF_MAX (V41). -/
theorem witness_LoadSetsUpTheTransfer :
    (checking 0xFFF00000 0x100000 0x1000 .peerReady).phase = .start ∧
      (checking 0xFFF00000 0x100000 0x1000 .peerReady).dlState = .peerReady ∧
      (checking 0xFFF00000 0x100000 0x1000 .peerReady).ops.total ≠ 0#32 ∧
      (checking 0xFFF00000 0x100000 0x1000 .peerReady).ops.cap ≠ 0#32 ∧
      (checking 0xFFF00000 0x100000 0x1000 .peerReady).ops.cap.toNat ≤ Config.ex.bufCap ∧
      (checking 0xFFF00000 0x100000 0x1000 .peerReady).ops.src.toNat +
        (checking 0xFFF00000 0x100000 0x1000 .peerReady).ops.total.toNat ≤ 2 ^ Config.ex.hostAddrW ∧
      (checking 0xFFF00000 0x100000 0x1000 .peerReady).ops.total.toNat ≤ Config.ex.xferBufMax := by decide

/-- A frame of two bytes, at the top of host memory. -/
theorem witness_FirstFrameIsTransferred :
    ∃ s : State, Invariant s ∧ s.busy = true ∧ validCommand s.cfg.toParams s.cmdw = some .loadBin ∧
      s.phase = .frame (.byte 0) ∧ s.lock = .free ∧ s.cur.frame = 2#32 ∧
      s.agenda = List.replicate (2 * s.cur.frame.toNat + 4) Turn.command ++ [.peerReadOut] :=
  ⟨scheduled (List.replicate 8 Turn.command ++ [.peerReadOut]) (withHostBytes (loading (.frame (.byte 0)))), by decide,
    rfl, by decide, rfl, rfl, by decide, by decide⟩

theorem witness_LoadWaitTicks :
    ({ loading .wait with prog := { total := 3#32, remain := 0#32, sent := 3#32 } } : State).copyComplete = false ∧
      (loading .wait).phase = .wait ∧ (loading .wait).prog.sent.toNat < (loading .wait).prog.total.toNat ∧
      ({ loading .wait with pollLeft := 1#32 } : State).pollLeft = 1#32 ∧ (loading .wait).pollLeft ≠ 1#32 := by decide

/-- A stale ack, the last frame's ack, and one with a frame still to come. -/
theorem witness_PerFrameStep :
    ({ scheduled [.continuation] State.reset with contPending := true } : State).dlState ≠ .transferring ∧
      (State.reset.cont = .idle ∧ State.reset.lock = .free) ∧
      (let s : State :=
        { scheduled [.continuation] (loading .wait) with
          contPending := true
          prog := { total := 3#32, remain := 2#32, sent := 1#32 } }
       s.dlState = .transferring ∧ s.cont = .idle ∧ s.lock = .free ∧
         s.prog.total.toNat ≤ (s.prog.sent + s.cur.frame).toNat) ∧
      (loading .wait).dlState = .transferring ∧
      ((loading .wait).prog.sent + (loading .wait).cur.frame).toNat < (loading .wait).prog.total.toNat := by decide

theorem witness_FrameAckTransfersTheNextFrame :
    ∃ s : State, Invariant s ∧ s.dlState = .transferring ∧ s.contPending = true ∧ s.cont = .idle ∧ s.lock = .free ∧
      s.cur.frame.toNat < s.prog.remain.toNat ∧ 1 = min s.cur.frame.toNat (s.prog.remain.toNat - s.cur.frame.toNat) ∧
      s.agenda = List.replicate (2 * 1 + 5) Turn.continuation ++ [.peerReadOut] :=
  ⟨scheduled (List.replicate 7 Turn.continuation ++ [.peerReadOut])
    { withHostBytes (loading .wait) with contPending := true, pollLeft := 5#32 }, by decide, by decide, by decide,
    by decide, by decide, by decide, by decide, by decide⟩

/-- V2's sizes: two frames, of 1024 and 476 bytes. -/
theorem witness_FrameAccounting :
    ∃ (s : State) (at_ : Nat → State), 1 ≤ 1500 ∧ 1 ≤ 1024 ∧ s.ops.total.toNat = 1500 ∧ s.ops.cap.toNat = 1024 ∧
      2 = (1500 + 1024 - 1) / 1024 ∧ at_ 0 = loadSetup .bin s ∧ (∀ j, at_ (j + 1) = advanceFrame (at_ j)) :=
  ⟨checking 0x80000000 1500 1024 .peerReady,
    fun j => Nat.rec (loadSetup .bin (checking 0x80000000 1500 1024 .peerReady)) (fun _ => advanceFrame) j,
    by decide, by decide, by decide, by decide, by decide, rfl, fun _ => rfl⟩

/-- V60, V61 and V62, and a unit of BUF_CAP bytes that ends at the top of host memory. -/
theorem witness_XmitPhases :
    (checking 0 0 0 .idle).ops.total = 0#32 ∧ Config.ex.bufCap < (checking 0 0x1001 0 .idle).ops.total.toNat ∧
      (let s := checking 0xFFFFFFF0 0x11 0 .idle
       s.phase = .start ∧ s.ops.total ≠ 0#32 ∧ s.ops.total.toNat ≤ s.cfg.bufCap ∧
         2 ^ s.cfg.hostAddrW < s.ops.src.toNat + s.ops.total.toNat) ∧
      (let s := checking 0xFFFFF000 0x1000 0 .idle
       s.ops.total ≠ 0#32 ∧ s.ops.total.toNat ≤ s.cfg.bufCap ∧
         s.ops.src.toNat + s.ops.total.toNat ≤ 2 ^ s.cfg.hostAddrW) ∧
      (running 0x13#32 (.xmit .send) State.reset).lock ≠ .continuation := by decide

theorem witness_XmitTransfersTheUnit :
    ∃ s : State, Invariant s ∧ s.busy = true ∧ validCommand s.cfg.toParams s.cmdw = some .xmit ∧ s.phase = .start ∧
      s.lock = .free ∧ s.ops.total ≠ 0#32 ∧ s.ops.total.toNat ≤ s.cfg.bufCap ∧
      s.ops.src.toNat + s.ops.total.toNat ≤ 2 ^ s.cfg.hostAddrW ∧
      s.agenda = List.replicate (2 * s.ops.total.toNat + 3) Turn.command ++ [.peerReadOut] :=
  ⟨scheduled (List.replicate 9 Turn.command ++ [.peerReadOut])
    (withHostBytes (running 0x13#32 .start (operands 0xFFFFFFFD 3 0 0 State.reset))), by decide, by decide, by decide,
    by decide, by decide, by decide, by decide, by decide, by decide⟩

theorem witness_UploadHandshakePhases :
    (running 0x20#32 .start State.reset).phase = .start ∧
      ({ running 0x20#32 .poll State.reset with pend := true, mbxIn := 0x0B01#16 } : State).mbxIn =
        Config.ex.codeUlReady ∧
      ({ running 0x20#32 .poll State.reset with pend := true, mbxIn := 0x0B02#16 } : State).mbxIn ≠
        Config.ex.codeUlReady ∧
      ({ running 0x20#32 .poll State.reset with pollLeft := 2#32 } : State).pollLeft ≠ 1#32 ∧
      ({ running 0x20#32 .poll State.reset with pollLeft := 1#32 } : State).pend = false ∧
      ({ running 0x20#32 .lastChance State.reset with mbxIn := 0x0B01#16 } : State).mbxIn = Config.ex.codeUlReady ∧
      (running 0x20#32 .lastChance State.reset).mbxIn ≠ Config.ex.codeUlReady ∧
      (running 0x20#32 .success State.reset).lock ≠ .continuation := by decide

theorem witness_UploadFramePhases :
    (running 0x21#32 .start State.reset).ulState ≠ .frameLoop ∧
      ({ running 0x21#32 .start State.reset with ulState := .frameLoop } : State).ulState = .frameLoop ∧
      ({ running 0x21#32 .poll State.reset with pend := true, mbxIn := 0x0B02#16 } : State).mbxIn =
        Config.ex.codeUlFrameReady ∧
      ({ running 0x21#32 .poll State.reset with pend := true, mbxIn := 0x0B01#16 } : State).mbxIn ≠
        Config.ex.codeUlFrameReady ∧
      ({ running 0x21#32 .poll State.reset with pollLeft := 2#32 } : State).pollLeft ≠ 1#32 ∧
      ({ running 0x21#32 .poll State.reset with pollLeft := 1#32 } : State).pend = false ∧
      (running 0x21#32 (.upload (.byte 2#32 0xFF#32 2)) State.reset).phase = .upload (.byte 2#32 0xFF#32 2) ∧
      (2#32).toNat ≤ 2 ∧ 0xFF#32 = Config.ex.tagUlEnd ∧ 1#32 ≠ Config.ex.tagUlEnd := by decide

/-- UL_STEP2 inside READ, before its third field read, with a size read and a destination. -/
def readingFields (size : Word) (dst len : Word) : State :=
  { running 0x21#32 (.upload (.count size 1#32))
      { State.reset with opnd := { Operands.zero with ulDst := dst, ulLen := len } } with
    lock := .command
    notifyEn := false
    ulState := .frameLoop }

/-- A size too large for the buffer (V75), for the destination (V74) and for host memory (V76). -/
theorem witness_UploadSizeIsValidated :
    (Invariant (readingFields 0x1001#32 0#32 0x10000#32) ∧
        (readingFields 0x1001#32 0#32 0x10000#32).phase = .upload (.count 0x1001#32 1#32) ∧
        (readingFields 0x1001#32 0#32 0x10000#32).cfg.bufCap < (0x1001#32).toNat) ∧
      (Invariant (readingFields 256#32 0#32 255#32) ∧
        (readingFields 256#32 0#32 255#32).ops.ulLen.toNat < (256#32).toNat) ∧
      Invariant (readingFields 256#32 0xFFFFFF80#32 256#32) ∧
        2 ^ (readingFields 256#32 0xFFFFFF80#32 256#32).cfg.hostAddrW <
          (readingFields 256#32 0xFFFFFF80#32 256#32).ops.ulDst.toNat + (256#32).toNat :=
  ⟨⟨by decide, by decide, by decide⟩, ⟨by decide, by decide⟩, by decide, by decide⟩

/-- A frame of two bytes in the window, with the terminating tag. -/
theorem witness_UploadFrameIsCopied :
    ∃ s : State, Invariant s ∧ s.busy = true ∧ validCommand s.cfg.toParams s.cmdw = some .ulStep2 ∧
      s.phase = .upload .size ∧ s.lock = .free ∧ 2#32 = Memory.readWord s.window s.map.size.toNat ∧
      0xFF#32 = Memory.readWord s.window s.map.tag.toNat ∧ 3#32 = Memory.readWord s.window s.map.count.toNat ∧
      (2#32).toNat ≤ s.cfg.bufCap ∧ (2#32).toNat ≤ s.ops.ulLen.toNat ∧
      s.ops.ulDst.toNat + (2#32).toNat ≤ 2 ^ s.cfg.hostAddrW ∧
      s.agenda = List.replicate (2 * (2#32).toNat + 4) Turn.command ++ [.peerReadOut] :=
  ⟨{ running 0x21#32 (.upload .size) (operands 0 0 0 0 State.reset) with
      notifyEn := false
      ulState := .frameLoop
      window := [(0x10, 2#8), (0x14, 0xFF#8), (0x18, 3#8), (0x100, 0xA1#8), (0x101, 0xA2#8)]
      agenda := List.replicate 8 Turn.command ++ [.peerReadOut] },
    by decide, by decide, by decide, by decide, by decide, by decide, by decide, by decide, by decide, by decide,
    by decide, by decide⟩

/-- A failing step of each upload command. -/
theorem witness_UploadFailuresRestoreTheLine :
    (∃ s t : State, s.busy = true ∧ exec .ulStep1 s = .next t ∧ t.busy = false ∧ t.resultCode ≠ .ok) ∧
      ∃ s t : State, s.busy = true ∧ s.phase = .poll ∧ exec .ulStep2 s = .next t ∧ t.busy = false ∧
        t.resultCode ≠ .ok :=
  ⟨⟨running 0x20#32 .lastChance State.reset, _, rfl, rfl, rfl, by decide⟩,
    ⟨{ running 0x21#32 .poll State.reset with pollLeft := 1#32 }, _, rfl, rfl, rfl, rfl, by decide⟩⟩

theorem witness_BootStartPhases :
    ((running 0x30#32 .start State.reset).phase = .start ∧
        (running 0x30#32 .start State.reset).lock ≠ .continuation) ∧
      ({ running 0x30#32 .wait State.reset with bootComplete := true } : State).bootComplete = true ∧
      ({ running 0x30#32 .wait State.reset with pollLeft := 2#32 } : State).pollLeft ≠ 1#32 ∧
      ({ running 0x30#32 .wait State.reset with pollLeft := 1#32 } : State).bootComplete = false := by decide

theorem witness_CpStartSendsInitEnd : (running 0x31#32 .start State.reset).lock ≠ .continuation := by decide

/-- V96's two destinations, V98's empty buffer, and the last byte of a copy to the top of host memory. -/
theorem witness_CrashLogPhases :
    (let s := running 0x40#32 .start { State.reset with opnd := { Operands.zero with crashDst := 0xFFFFFF01#32 } }
     s.phase = .start ∧ 2 ^ s.cfg.hostAddrW < s.ops.crashDst.toNat + s.cfg.crashLen) ∧
      (let s := running 0x40#32 .start { State.reset with opnd := { Operands.zero with crashDst := 0xFFFFFF00#32 } }
       s.ops.crashDst.toNat + s.cfg.crashLen ≤ 2 ^ s.cfg.hostAddrW) ∧
      (State.powerOn noCrash [] [] []).cfg.crashLen = 0 ∧
      (let s : State :=
        { running 0x40#32 (.crash (.put 255 7#8))
            { State.reset with opnd := { Operands.zero with crashDst := 0xFFFFFF00#32 } } with lock := .command }
       s.phase = .crash (.put 255 7#8) ∧ 255 + 1 = s.cfg.crashLen ∧ s.lock ≠ .continuation ∧
         s.ops.crashDst.toNat + s.cfg.crashLen ≤ 2 ^ s.cfg.hostAddrW ∧ Memory.wf s.hostMem = true) := by decide

theorem witness_CrashBufferIsCopied :
    ∃ s : State, Invariant s ∧ s.busy = true ∧ validCommand s.cfg.toParams s.cmdw = some .crashLog ∧
      s.phase = .start ∧ s.lock = .free ∧ 1 ≤ s.cfg.crashLen ∧
      s.ops.crashDst.toNat + s.cfg.crashLen ≤ 2 ^ s.cfg.hostAddrW ∧
      s.agenda = List.replicate (2 * s.cfg.crashLen + 1) Turn.command ++ [.peerReadOut] :=
  ⟨scheduled (List.replicate (2 * Config.ex.crashLen + 1) Turn.command ++ [.peerReadOut])
      { running 0x40#32 .start (operands 0 0 0 0 State.reset) with window := [(0x6000, 0xC0#8), (0x60FF, 0xC1#8)] },
    by decide, by decide, by decide, by decide, by decide, by decide, by decide, rfl⟩

end Sys2Proof.Tests
end

