-- ==== Sys2Proof/Proofs/Scope.lean ====
section
/-! PROOFS. What it takes for a word to be a command of a configuration (00_scope.md R14, 30_encoding.md R74, R76). -/

namespace Sys2Proof

/-! ### The opcode table -/

/-- R74's twelve opcodes, in the table's order; `mem_assignedOpcodes_iff` ties the list to the commands. -/
def assignedOpcodes : List (BitVec 8) :=
  [0x01#8, 0x02#8, 0x03#8, 0x10#8, 0x11#8, 0x12#8, 0x13#8, 0x20#8, 0x21#8, 0x30#8, 0x31#8, 0x40#8]

theorem Instr.opcode_mem_assigned (i : Instr) : i.opcode ∈ assignedOpcodes := by
  cases i <;> simp [Instr.opcode, assignedOpcodes]

/-- The table answers every assigned opcode, whatever the direction, with a command of that opcode. -/
theorem instrOfOpcode_of_mem {op : BitVec 8} (dir : Direction) (h : op ∈ assignedOpcodes) :
    ∃ i, instrOfOpcode op dir = some i ∧ i.opcode = op := by
  simp only [assignedOpcodes, List.mem_cons, List.not_mem_nil, or_false] at h
  rcases h with rfl | rfl | rfl | rfl | rfl | rfl | rfl | rfl | rfl | rfl | rfl | rfl <;> exact ⟨_, rfl, rfl⟩

theorem instrOfOpcode_of_not_mem {op : BitVec 8} (dir : Direction) (h : op ∉ assignedOpcodes) :
    instrOfOpcode op dir = none := by
  simp only [assignedOpcodes, List.mem_cons, List.not_mem_nil, or_false, not_or] at h
  simp [instrOfOpcode, h]

/-- Whatever command the table answers an opcode with is one of that opcode. -/
theorem opcode_of_instrOfOpcode {op : BitVec 8} {dir : Direction} {i : Instr} (h : instrOfOpcode op dir = some i) :
    i.opcode = op := by
  by_cases hop : op ∈ assignedOpcodes
  · obtain ⟨j, hj, hjop⟩ := instrOfOpcode_of_mem dir hop
    rw [hj] at h
    exact Option.some.inj h ▸ hjop
  · rw [instrOfOpcode_of_not_mem dir hop] at h
    cases h

/-- R74: the assigned opcodes are exactly those the table gives a command. -/
theorem mem_assignedOpcodes_iff {op : BitVec 8} (dir : Direction) :
    op ∈ assignedOpcodes ↔ ∃ i, instrOfOpcode op dir = some i := by
  constructor
  · intro h
    obtain ⟨i, hi, -⟩ := instrOfOpcode_of_mem dir h
    exact ⟨i, hi⟩
  · rintro ⟨i, hi⟩
    exact opcode_of_instrOfOpcode hi ▸ i.opcode_mem_assigned

/-! ### R14's features, by opcode -/

/-- R14: the feature parameter an opcode needs is 1. -/
def Params.GatesOpen (p : Params) (op : BitVec 8) : Prop :=
  (op = 0x02#8 → p.fDlMap = true) ∧
    (op = 0x13#8 → p.fXmit = true) ∧
    (op ∈ [0x10#8, 0x11#8, 0x12#8, 0x20#8, 0x21#8, 0x30#8] → p.fIoctl = true) ∧
    (op = 0x40#8 → p.fCrashLog = true)

/-- A command's feature is a matter of its opcode alone. -/
theorem Instr.present_iff_gatesOpen (p : Params) (i : Instr) : i.present p = true ↔ p.GatesOpen i.opcode := by
  cases i <;> simp [Instr.present, Instr.opcode, Params.GatesOpen]

/-! ### Valid words -/

theorem dirField_eq_one_iff (w : Word) : dirField w = 1#1 ↔ w.getLsbD 8 = true := by
  unfold dirField
  rw [BitVec.eq_of_getLsbD_eq_iff]
  simp

/-- R76's conditions on the word, for the command it is. -/
theorem decode_eq_ok_iff {w : Word} {i : Instr} :
    decode w = .ok i ↔
      reservedField w = 0#23 ∧ (w.getLsbD 8 = false ∨ opcodeField w = 0x01#8) ∧
        instrOfOpcode (opcodeField w) (Direction.ofBit (dirField w)) = some i := by
  have hdir : (w.getLsbD 8 = false ∨ opcodeField w = 0x01#8) ↔ ¬(dirField w = 1#1 ∧ opcodeField w ≠ 0x01#8) := by
    rw [dirField_eq_one_iff, not_and_not_right, ← Bool.not_eq_true, imp_iff_not_or]
  rw [hdir]
  unfold decode
  split
  · next hres => simp [hres]
  · next hres =>
    rw [not_not] at hres
    cases instrOfOpcode (opcodeField w) (Direction.ofBit (dirField w)) with
    | none => simp
    | some j =>
      by_cases hd : dirField w = 1#1 ∧ opcodeField w ≠ 0x01#8 <;> simp [hd, hres]

/-- R76: the command of a word is the one it decodes to, when its feature is present. -/
theorem validCommand_eq_some_iff {p : Params} {w : Word} {i : Instr} :
    validCommand p w = some i ↔ decode w = .ok i ∧ i.present p = true := by
  unfold validCommand
  cases decode w with
  | error e => simp
  | ok j =>
    by_cases hp : j.present p = true
    · simp only [if_pos hp, Option.some.injEq, Except.ok.injEq]
      constructor
      · rintro rfl
        exact ⟨rfl, hp⟩
      · rintro ⟨rfl, -⟩
        rfl
    · simp only [if_neg hp, Except.ok.injEq]
      constructor
      · intro h
        cases h
      · rintro ⟨rfl, hi⟩
        exact absurd hi hp

/-- R14, R76: `valid(w)` as a condition on the fields of the word. -/
theorem validCommand_ne_none_iff (p : Params) (w : Word) :
    validCommand p w ≠ none ↔
      reservedField w = 0#23 ∧ opcodeField w ∈ assignedOpcodes ∧
        (w.getLsbD 8 = false ∨ opcodeField w = 0x01#8) ∧ p.GatesOpen (opcodeField w) := by
  rw [Option.ne_none_iff_exists', mem_assignedOpcodes_iff (Direction.ofBit (dirField w))]
  simp only [validCommand_eq_some_iff, decode_eq_ok_iff, Instr.present_iff_gatesOpen]
  constructor
  · rintro ⟨i, ⟨hres, hdir, hi⟩, hgate⟩
    exact ⟨hres, ⟨i, hi⟩, hdir, opcode_of_instrOfOpcode hi ▸ hgate⟩
  · rintro ⟨hres, ⟨i, hi⟩, hdir, hgate⟩
    exact ⟨i, ⟨hres, hdir, hi⟩, (opcode_of_instrOfOpcode hi).symm ▸ hgate⟩

/-- Settles O2: the statement is `validCommand_ne_none_iff` with the fields, the opcodes and the gates written out. -/
theorem validWordsAreTheRuledOnes : Obligations.ValidWordsAreTheRuledOnes :=
  validCommand_ne_none_iff

end Sys2Proof
end

/-! PROOFS. What each step of the machine can do, said once: the moves of the Command unit as one relation
(`CommandMove`, tied to the model by `exec_move`), and the inversions of the other units' steps. -/

namespace Sys2Proof.Machine

/-! ### Shared operations, inverted -/

theorem pollTick_next {c : Bool} {hit out : State → Result} {s t : State} (h : pollTick c hit out s = .next t) :
    (c = true ∧ hit s = .next t) ∨
      (c = false ∧ s.pollLeft = 1#32 ∧ out { s with pollLeft := 0#32 } = .next t) ∨
      (c = false ∧ s.pollLeft ≠ 1#32 ∧ t = { s with pollLeft := s.pollLeft - 1#32 }) := by
  rcases pollTick_cases c hit out s with ⟨hc, he⟩ | ⟨hc, hl, he⟩ | ⟨hc, hl, he⟩
  · exact .inl ⟨hc, he ▸ h⟩
  · exact .inr (.inl ⟨hc, hl, he ▸ h⟩)
  · rw [he] at h
    cases h
    exact .inr (.inr ⟨hc, hl, rfl⟩)

theorem commandAccess_next {s t : State} {k : State → Result} (h : commandAccess s k = .next t) :
    (s.lock = .continuation ∧ t = s) ∨ (s.lock ≠ .continuation ∧ k { s with lock := .command } = .next t) := by
  rcases commandAccess_cases s k with ⟨hl, he⟩ | ⟨hl, he⟩
  · rw [he] at h
    cases h
    exact .inl ⟨hl, rfl⟩
  · exact .inr ⟨hl, he ▸ h⟩

theorem ulPoll_next {want : Code} {hit : Phase} {out : State → Result} {s t : State}
    (h : ulPoll want hit out s = .next t) :
    (s.pend = true ∧ s.mbxIn = want ∧ t = { (takeIn s).2 with phase := hit }) ∨
      (s.pend = true ∧ s.mbxIn ≠ want ∧ ulFail .mismatch (takeIn s).2 = .next t) ∨
      (s.pollLeft = 1#32 ∧ out { s with pollLeft := 0#32 } = .next t) ∨
      (s.pollLeft ≠ 1#32 ∧ t = { s with pollLeft := s.pollLeft - 1#32 }) := by
  rcases pollTick_next h with ⟨hp, h⟩ | ⟨-, hl, h⟩ | ⟨-, hl, h⟩
  · by_cases hw : s.mbxIn = want
    · rw [if_pos (show (takeIn s).1 = want from hw)] at h
      cases h
      exact .inl ⟨hp, hw, rfl⟩
    · rw [if_neg (show ¬(takeIn s).1 = want from hw)] at h
      exact .inr (.inl ⟨hp, hw, h⟩)
  · exact .inr (.inr (.inl ⟨hl, h⟩))
  · exact .inr (.inr (.inr ⟨hl, h⟩))

/-! ### What an access of the engine leaves unchanged -/

theorem send_eq (c : Code) (s : State) :
    send c s = { s with mbxOut := c, peerIrq := true, history := (send c s).history } := by
  cases h : s.peerIrq <;> simp [send, record, h]

/-- `u` is `s` after accesses of the engine: only the memories, the outbound mailbox and the history may differ. -/
def AccessFrame (s u : State) : Prop :=
  ∃ w h m l es, u = { s with window := w, hostMem := h, mbxOut := m, peerIrq := l, history := es }

theorem send_frame (c : Code) (s : State) : AccessFrame s (send c s) :=
  ⟨_, _, _, _, _, send_eq c s⟩

theorem memRead1_frame {a : Nat} {b : Byte} {s u : State} (hu : memRead1 a s = .ok (b, u)) : AccessFrame s u := by
  obtain ⟨-, e⟩ := memRead1_ok.1 hu
  cases e
  exact ⟨_, _, _, _, _, rfl⟩

theorem memRead4_frame {a : Nat} {v : Word} {s u : State} (hu : memRead4 a s = .ok (v, u)) : AccessFrame s u := by
  obtain ⟨-, -, e⟩ := memRead4_ok.1 hu
  cases e
  exact ⟨_, _, _, _, _, rfl⟩

theorem hostRead1_frame {a : Nat} {b : Byte} {s u : State} (hu : hostRead1 a s = .ok (b, u)) : AccessFrame s u := by
  obtain ⟨-, e⟩ := hostRead1_ok.1 hu
  cases e
  exact ⟨_, _, _, _, _, rfl⟩

theorem memWrite1_frame {a : Nat} {b : Byte} {s u : State} (hu : memWrite1 a b s = .ok u) : AccessFrame s u := by
  obtain ⟨-, rfl⟩ := memWrite1_ok.1 hu
  exact ⟨_, _, _, _, _, rfl⟩

theorem memWrite4_frame {a : Nat} {v : Word} {s u : State} (hu : memWrite4 a v s = .ok u) : AccessFrame s u := by
  obtain ⟨-, -, rfl⟩ := memWrite4_ok.1 hu
  exact ⟨_, _, _, _, _, rfl⟩

theorem hostWrite1_frame {a : Nat} {b : Byte} {s u : State} (hu : hostWrite1 a b s = .ok u) : AccessFrame s u := by
  obtain ⟨-, rfl⟩ := hostWrite1_ok.1 hu
  exact ⟨_, _, _, _, _, rfl⟩

theorem frameAccess_frame {p : FramePos} {q : Option FramePos} {s u : State} (hu : frameAccess p s = .ok (q, u)) :
    AccessFrame s u := by
  rcases frameAccess_cases hu with
    ⟨j, -, -, -, e⟩ | ⟨j, -, -, e⟩ | ⟨j, b, -, -, e⟩ | ⟨-, e⟩ | ⟨-, e⟩ | ⟨-, e⟩ <;> cases e
  case inr.inr.inr.inr.inr => exact send_frame _ _
  all_goals exact ⟨_, _, _, _, _, rfl⟩

/-! ### The moves of the Command unit -/

/-- The command a kind of LOAD is. -/
def LoadKind.instr : LoadKind → Instr
  | .bin => .loadBin
  | .nv => .loadNv

/-- A phase in which a command runs its first phase: none of the command's own later ones (log 11). -/
def RunsFirst (i : Instr) (ph : Phase) : Prop :=
  phaseFits (some i) ph = true → ph = .idle ∨ ph = .decode ∨ ph = .start

/-- One Command-unit step of a command after its decoding: the state it leads to from `s`. The rules 40_memory_map.md to
45_diagnostic.md give, one constructor per branch; `exec_move` ties the relation to `exec`. -/
inductive CommandMove (s : State) : Instr → State → Prop
  /-- 10 R51: the other unit has the port. -/
  | held (i : Instr) (hl : s.lock = .continuation) : CommandMove s i s
  /-- 00 R12: a failed poll check with iterations left. -/
  | pollMiss (i : Instr) (hp : s.phase = .wait ∨ s.phase = .poll) (hl : s.pollLeft ≠ 1#32) :
      CommandMove s i { s with pollLeft := s.pollLeft - 1#32 }
  | mapBoot (d : Direction) : CommandMove s (.mapBoot d) (finish .ok (selectMap (bootMap s.cfg d) d .boot s))
  | mapDl : CommandMove s .mapDl (finish .ok (selectMap (secondaryMap s.cfg) .download .secondary s))
  | setMagic {u : State} (hl : s.lock ≠ .continuation)
      (hu : memWrite4 s.cfg.hdrMagicOff.toNat s.cfg.dlMagic { s with lock := .command } = .ok u) :
      CommandMove s .setMagic (finish .ok u)
  | prepareStart (hp : RunsFirst .prepare s.phase) :
      CommandMove s .prepare (startPoll s.cfg.nPrepare .wait (prepareStart s))
  | prepareReady (hp : s.phase = .wait) :
      CommandMove s .prepare (finish .ok { consumeLatch .copyStarted s with dlState := .peerReady })
  | prepareTimeout (hp : s.phase = .wait) :
      CommandMove s .prepare (finish .timeout { s with pollLeft := 0#32, dlState := .timeoutFailed })
  | loadRefused (k : LoadKind) {code : ResultCode} (hp : RunsFirst k.instr s.phase) (hc : loadCheck s = some code) :
      CommandMove s k.instr (finish code s)
  | loadSetup (k : LoadKind) (hp : RunsFirst k.instr s.phase) (hc : loadCheck s = none) :
      CommandMove s k.instr { loadSetup k s with phase := .frame (.byte 0) }
  | loadAccess (k : LoadKind) {p q : FramePos} {u : State} (hp : s.phase = .frame p) (hl : s.lock ≠ .continuation)
      (hu : frameAccess p { s with lock := .command } = .ok (some q, u)) :
      CommandMove s k.instr { u with phase := .frame q }
  | loadSent (k : LoadKind) {p : FramePos} {u : State} (hp : s.phase = .frame p) (hl : s.lock ≠ .continuation)
      (hu : frameAccess p { s with lock := .command } = .ok (none, u)) :
      CommandMove s k.instr (startPoll (k.budget u.cfg) .wait (releaseCommand u))
  | loadDone (k : LoadKind) (hp : s.phase = .wait) (hc : (sizeCheck s).copyComplete = true) :
      CommandMove s k.instr (finish .ok (consumeLatch .copyComplete (sizeCheck s)))
  | loadTimeout (k : LoadKind) (hp : s.phase = .wait) :
      CommandMove s k.instr (finish .timeout
        { s with
          pollLeft := 0#32
          dlState := .timeoutFailed
          cur := { s.cur with tag := 0#32 }
          contPending := false })
  | xmitRefused {code : ResultCode} (hp : RunsFirst .xmit s.phase) (hc : xmitCheck s = some code) :
      CommandMove s .xmit (finish code s)
  | xmitSetup (hp : RunsFirst .xmit s.phase) (hc : xmitCheck s = none) :
      CommandMove s .xmit { s with phase := .xmit (.byte 0) }
  | xmitRead {i : Nat} {b : Byte} {u : State} (hp : s.phase = .xmit (.byte i)) (hl : s.lock ≠ .continuation)
      (hi : i < s.ops.total.toNat)
      (hu : hostRead1 (byteAddr s.ops.src i) { s with lock := .command } = .ok (b, u)) :
      CommandMove s .xmit { u with phase := .xmit (.put i b) }
  | xmitSize {i : Nat} {u : State} (hp : s.phase = .xmit (.byte i)) (hl : s.lock ≠ .continuation)
      (hu : memWrite4 s.map.size.toNat s.ops.total { s with lock := .command } = .ok u) :
      CommandMove s .xmit { u with phase := .xmit .send }
  | xmitPut {i : Nat} {b : Byte} {u : State} (hp : s.phase = .xmit (.put i b)) (hl : s.lock ≠ .continuation)
      (hu : memWrite1 (byteAddr s.map.buf i) b { s with lock := .command } = .ok u) :
      CommandMove s .xmit { u with phase := .xmit (.byte (i + 1)) }
  | xmitSend (hp : s.phase = .xmit .send) (hl : s.lock ≠ .continuation) :
      CommandMove s .xmit (finish .ok (send s.cfg.codeXmitSent { s with lock := .command }))
  | ulStep1Start (hp : RunsFirst .ulStep1 s.phase) :
      CommandMove s .ulStep1 (startPoll s.cfg.nUlHs .poll { s with notifyEn := false, ulState := .handshake })
  | ulStep1Taken (hp : s.phase = .poll) : CommandMove s .ulStep1 { (takeIn s).2 with phase := .success }
  | ulStep1Mismatch (hp : s.phase = .poll) :
      CommandMove s .ulStep1
        (finish .mismatch { (takeIn s).2 with notifyEn := true, ulState := .timeoutFailed })
  | ulStep1PollOut (hp : s.phase = .poll) :
      CommandMove s .ulStep1 { s with pollLeft := 0#32, phase := .lastChance }
  | ulStep1LastTaken (hp : s.phase = .lastChance) :
      CommandMove s .ulStep1 { (peekIn s).2 with pend := false, phase := .success }
  | ulStep1Timeout (hp : s.phase = .lastChance) :
      CommandMove s .ulStep1 (finish .timeout { (peekIn s).2 with notifyEn := true, ulState := .timeoutFailed })
  | ulStep1Success (hp : s.phase = .success) (hl : s.lock ≠ .continuation) :
      CommandMove s .ulStep1
        (finish .ok { send s.cfg.codeUlBegin { s with lock := .command } with ulState := .frameLoop })
  | ulStep2Refused (hp : RunsFirst .ulStep2 s.phase) : CommandMove s .ulStep2 (finish .invalid s)
  | ulStep2Start (hp : RunsFirst .ulStep2 s.phase) :
      CommandMove s .ulStep2 (startPoll s.cfg.nUlFrame .poll { s with notifyEn := false })
  | ulStep2Taken (hp : s.phase = .poll) : CommandMove s .ulStep2 { (takeIn s).2 with phase := .upload .size }
  | ulStep2Mismatch (hp : s.phase = .poll) :
      CommandMove s .ulStep2
        (finish .mismatch { (takeIn s).2 with notifyEn := true, ulState := .timeoutFailed })
  | ulStep2Timeout (hp : s.phase = .poll) :
      CommandMove s .ulStep2
        (finish .timeout { s with pollLeft := 0#32, notifyEn := true, ulState := .timeoutFailed })
  | uploadSize {size : Word} {u : State} (hp : s.phase = .upload .size) (hl : s.lock ≠ .continuation)
      (hu : memRead4 s.map.size.toNat { s with lock := .command } = .ok (size, u)) :
      CommandMove s .ulStep2 { u with phase := .upload (.tag size) }
  | uploadTag {size tag : Word} {u : State} (hp : s.phase = .upload (.tag size)) (hl : s.lock ≠ .continuation)
      (hu : memRead4 s.map.tag.toNat { s with lock := .command } = .ok (tag, u)) :
      CommandMove s .ulStep2 { u with phase := .upload (.count size tag) }
  | uploadRefused {size tag count : Word} {u : State} (hp : s.phase = .upload (.count size tag))
      (hl : s.lock ≠ .continuation)
      (hu : memRead4 s.map.count.toNat { s with lock := .command } = .ok (count, u)) :
      CommandMove s .ulStep2
        (finish .invalid
          { u with
            ulLast := { size := size, tag := tag, count := count }
            notifyEn := true
            ulState := .timeoutFailed })
  | uploadFields {size tag count : Word} {u : State} (hp : s.phase = .upload (.count size tag))
      (hl : s.lock ≠ .continuation) (hs : uploadSizeBad u size = false)
      (hu : memRead4 s.map.count.toNat { s with lock := .command } = .ok (count, u)) :
      CommandMove s .ulStep2
        { u with ulLast := { size := size, tag := tag, count := count }, phase := .upload (.byte size tag 0) }
  | uploadRead {size tag : Word} {i : Nat} {b : Byte} {u : State} (hp : s.phase = .upload (.byte size tag i))
      (hl : s.lock ≠ .continuation) (hi : i < size.toNat)
      (hu : memRead1 (byteAddr s.map.buf i) { s with lock := .command } = .ok (b, u)) :
      CommandMove s .ulStep2 { u with phase := .upload (.put size tag i b) }
  | uploadPut {size tag : Word} {i : Nat} {b : Byte} {u : State} (hp : s.phase = .upload (.put size tag i b))
      (hl : s.lock ≠ .continuation)
      (hu : hostWrite1 (byteAddr s.ops.ulDst i) b { s with lock := .command } = .ok u) :
      CommandMove s .ulStep2 { u with phase := .upload (.byte size tag (i + 1)) }
  | uploadAck {size tag : Word} {i : Nat} (hp : s.phase = .upload (.byte size tag i)) (hl : s.lock ≠ .continuation) :
      CommandMove s .ulStep2 (uploadAck tag { s with lock := .command })
  | bootStart (hp : RunsFirst .bootStart s.phase) (hl : s.lock ≠ .continuation) :
      CommandMove s .bootStart
        (startPoll s.cfg.nBoot .wait
          (releaseCommand (send s.cfg.codeStartExec { s with lock := .command, bootState := .waitBooting })))
  | bootReady (hp : s.phase = .wait) :
      CommandMove s .bootStart (finish .ok { consumeLatch .bootComplete s with bootState := .booted })
  | bootTimeout (hp : s.phase = .wait) :
      CommandMove s .bootStart (finish .timeout { s with pollLeft := 0#32, bootState := .timeoutFailed })
  | cpStart (hl : s.lock ≠ .continuation) :
      CommandMove s .cpStart
        (finish .ok
          { send (s.cfg.codeInitEnd ||| s.cfg.initCaps) { s with lock := .command } with bootState := .initEndSent })
  | crashRefused {code : ResultCode} (hp : RunsFirst .crashLog s.phase) (hc : crashCheck s = some code) :
      CommandMove s .crashLog (finish code s)
  | crashSetup (hp : RunsFirst .crashLog s.phase) (hc : crashCheck s = none) :
      CommandMove s .crashLog { s with phase := .crash (.byte 0) }
  | crashRead {i : Nat} {b : Byte} {u : State} (hp : s.phase = .crash (.byte i)) (hl : s.lock ≠ .continuation)
      (hi : i < s.cfg.crashLen)
      (hu : memRead1 (byteAddr s.cfg.crashRxOff i) { s with lock := .command } = .ok (b, u)) :
      CommandMove s .crashLog { u with phase := .crash (.put i b) }
  | crashEmpty {i : Nat} (hp : s.phase = .crash (.byte i)) : CommandMove s .crashLog (finish .ok s)
  | crashPut {i : Nat} {b : Byte} {u : State} (hp : s.phase = .crash (.put i b)) (hl : s.lock ≠ .continuation)
      (hu : hostWrite1 (byteAddr s.ops.crashDst i) b { s with lock := .command } = .ok u) :
      CommandMove s .crashLog { u with phase := .crash (.byte (i + 1)) }
  | crashLast {i : Nat} {b : Byte} {u : State} (hp : s.phase = .crash (.put i b)) (hl : s.lock ≠ .continuation)
      (hu : hostWrite1 (byteAddr s.ops.crashDst i) b { s with lock := .command } = .ok u) :
      CommandMove s .crashLog (finish .ok u)

variable {s t : State}

theorem execSetMagic_move (h : execSetMagic s = .next t) : CommandMove s .setMagic t := by
  obtain ⟨hl, rfl⟩ | ⟨hl, h⟩ := commandAccess_next h
  · exact .held _ hl
  · obtain ⟨u, hu, h⟩ := onOk_next.1 h
    cases h
    exact .setMagic hl hu

theorem execPrepare_move (h : execPrepare s = .next t) : CommandMove s .prepare t := by
  unfold execPrepare at h
  split at h
  · next hp =>
    obtain ⟨-, h⟩ | ⟨-, -, h⟩ | ⟨-, hl, rfl⟩ := pollTick_next h
    · cases h
      exact .prepareReady hp
    · cases h
      exact .prepareTimeout hp
    · exact .pollMiss _ (.inl hp) hl
  · next hp =>
    cases h
    refine .prepareStart fun hf => ?_
    cases hs : s.phase <;> simp_all [phaseFits]

theorem loadStart_move {k : LoadKind} (hp : RunsFirst k.instr s.phase) (h : loadStart k s = .next t) :
    CommandMove s k.instr t := by
  unfold loadStart at h
  split at h
  · next code hc =>
    cases h
    exact .loadRefused k hp hc
  · next hc =>
    cases h
    exact .loadSetup k hp hc

theorem loadFrame_move {k : LoadKind} {p : FramePos} (hp : s.phase = .frame p) (h : loadFrame k p s = .next t) :
    CommandMove s k.instr t := by
  obtain ⟨hl, rfl⟩ | ⟨hl, h⟩ := commandAccess_next h
  · exact .held _ hl
  · obtain ⟨⟨q, u⟩, hu, h⟩ := onOk_next.1 h
    cases q with
    | some q =>
      cases h
      exact .loadAccess k hp hl hu
    | none =>
      cases h
      exact .loadSent k hp hl hu

/-- A size check that leaves COPY_COMPLETE at 0 changed nothing. -/
theorem sizeCheck_of_not_complete (h : (sizeCheck s).copyComplete = false) : sizeCheck s = s := by
  unfold sizeCheck at h ⊢
  split at h
  · simp at h
  · next hs => rw [if_neg hs]

theorem loadWait_move {k : LoadKind} (hp : s.phase = .wait) (h : loadWait s = .next t) : CommandMove s k.instr t := by
  obtain ⟨hc, h⟩ | ⟨hc, -, h⟩ | ⟨hc, hl, rfl⟩ := pollTick_next h
  · cases h
    exact .loadDone k hp hc
  · rw [sizeCheck_of_not_complete hc] at h
    cases h
    exact .loadTimeout k hp
  · rw [sizeCheck_of_not_complete hc] at hl ⊢
    exact .pollMiss _ (.inl hp) hl

theorem loadStep_move {k : LoadKind} (h : loadStep k s = .next t) : CommandMove s k.instr t := by
  unfold loadStep at h
  split at h
  · next p hp => exact loadFrame_move hp h
  · next hp => exact loadWait_move hp h
  · refine loadStart_move (fun hf => ?_) h
    cases k <;> cases hs : s.phase <;> simp_all [phaseFits, LoadKind.instr]

theorem xmitAccess_move {p : XmitPos} (hp : s.phase = .xmit p) (h : xmitAccess p s = .next t) :
    CommandMove s .xmit t := by
  obtain ⟨hl, rfl⟩ | ⟨hl, h⟩ := commandAccess_next h
  · exact .held _ hl
  cases p with
  | byte i =>
    simp only at h
    split at h
    · next hi =>
      obtain ⟨⟨b, u⟩, hu, h⟩ := onOk_next.1 h
      cases h
      exact .xmitRead hp hl hi hu
    · obtain ⟨u, hu, h⟩ := onOk_next.1 h
      cases h
      exact .xmitSize hp hl hu
  | put i b =>
    obtain ⟨u, hu, h⟩ := onOk_next.1 h
    cases h
    exact .xmitPut hp hl hu
  | send =>
    cases h
    exact .xmitSend hp hl

theorem execXmit_move (h : execXmit s = .next t) : CommandMove s .xmit t := by
  unfold execXmit at h
  split at h
  · next p hp => exact xmitAccess_move hp h
  · next hp =>
    have hfirst : RunsFirst .xmit s.phase := by
      intro hf
      cases hs : s.phase <;> simp_all [phaseFits]
    split at h
    · next code hc =>
      cases h
      exact .xmitRefused hfirst hc
    · next hc =>
      cases h
      exact .xmitSetup hfirst hc

theorem execUlStep1_move (h : execUlStep1 s = .next t) : CommandMove s .ulStep1 t := by
  unfold execUlStep1 at h
  split at h
  · next hp =>
    obtain ⟨-, -, rfl⟩ | ⟨-, -, h⟩ | ⟨-, h⟩ | ⟨hl, rfl⟩ := ulPoll_next h
    · exact .ulStep1Taken hp
    · cases h
      exact .ulStep1Mismatch hp
    · cases h
      exact .ulStep1PollOut hp
    · exact .pollMiss _ (.inr hp) hl
  · next hp =>
    split at h
    · cases h
      exact .ulStep1LastTaken hp
    · cases h
      exact .ulStep1Timeout hp
  · next hp =>
    obtain ⟨hl, rfl⟩ | ⟨hl, h⟩ := commandAccess_next h
    · exact .held _ hl
    · cases h
      exact .ulStep1Success hp hl
  · cases h
    refine .ulStep1Start fun hf => ?_
    cases hs : s.phase <;> simp_all [phaseFits]

theorem uploadAccess_move {p : UploadPos} (hp : s.phase = .upload p) (h : uploadAccess p s = .next t) :
    CommandMove s .ulStep2 t := by
  obtain ⟨hl, rfl⟩ | ⟨hl, h⟩ := commandAccess_next h
  · exact .held _ hl
  cases p with
  | size =>
    obtain ⟨⟨v, u⟩, hu, h⟩ := onOk_next.1 h
    cases h
    exact .uploadSize hp hl hu
  | tag size =>
    obtain ⟨⟨v, u⟩, hu, h⟩ := onOk_next.1 h
    cases h
    exact .uploadTag hp hl hu
  | count size tag =>
    obtain ⟨⟨v, u⟩, hu, h⟩ := onOk_next.1 h
    simp only [Machine.uploadFields] at h
    split at h
    · cases h
      exact .uploadRefused (u := u) hp hl hu
    · next hs =>
      cases h
      exact .uploadFields hp hl (Bool.not_eq_true _ ▸ hs) hu
  | byte size tag i =>
    simp only at h
    split at h
    · next hi =>
      obtain ⟨⟨b, u⟩, hu, h⟩ := onOk_next.1 h
      cases h
      exact .uploadRead hp hl hi hu
    · cases h
      exact .uploadAck hp hl
  | put size tag i b =>
    obtain ⟨u, hu, h⟩ := onOk_next.1 h
    cases h
    exact .uploadPut hp hl hu

theorem execUlStep2_move (h : execUlStep2 s = .next t) : CommandMove s .ulStep2 t := by
  unfold execUlStep2 at h
  split at h
  · next hp =>
    obtain ⟨-, -, rfl⟩ | ⟨-, -, h⟩ | ⟨-, h⟩ | ⟨hl, rfl⟩ := ulPoll_next h
    · exact .ulStep2Taken hp
    · cases h
      exact .ulStep2Mismatch hp
    · cases h
      exact .ulStep2Timeout hp
    · exact .pollMiss _ (.inr hp) hl
  · next p hp => exact uploadAccess_move hp h
  · next hp =>
    have hfirst : RunsFirst .ulStep2 s.phase := by
      intro hf
      cases hs : s.phase <;> simp_all [phaseFits]
    split at h
    · cases h
      exact .ulStep2Refused hfirst
    · cases h
      exact .ulStep2Start hfirst

theorem execBootStart_move (h : execBootStart s = .next t) : CommandMove s .bootStart t := by
  unfold execBootStart at h
  split at h
  · next hp =>
    obtain ⟨-, h⟩ | ⟨-, -, h⟩ | ⟨-, hl, rfl⟩ := pollTick_next h
    · cases h
      exact .bootReady hp
    · cases h
      exact .bootTimeout hp
    · exact .pollMiss _ (.inl hp) hl
  · obtain ⟨hl, rfl⟩ | ⟨hl, h⟩ := commandAccess_next h
    · exact .held _ hl
    · cases h
      refine .bootStart (fun hf => ?_) hl
      cases hs : s.phase <;> simp_all [phaseFits]

theorem execCpStart_move (h : execCpStart s = .next t) : CommandMove s .cpStart t := by
  obtain ⟨hl, rfl⟩ | ⟨hl, h⟩ := commandAccess_next h
  · exact .held _ hl
  · cases h
    exact .cpStart hl

theorem crashCopy_move {p : CrashPos} (hp : s.phase = .crash p) (h : crashCopy p s = .next t) :
    CommandMove s .crashLog t := by
  cases p with
  | byte i =>
    simp only [crashCopy] at h
    split at h
    · next hi =>
      obtain ⟨hl, rfl⟩ | ⟨hl, h⟩ := commandAccess_next h
      · exact .held _ hl
      · obtain ⟨⟨b, u⟩, hu, h⟩ := onOk_next.1 h
        cases h
        exact .crashRead hp hl hi hu
    · cases h
      exact .crashEmpty hp
  | put i b =>
    unfold crashCopy at h
    obtain ⟨hl, rfl⟩ | ⟨hl, h⟩ := commandAccess_next h
    · exact .held _ hl
    · obtain ⟨u, hu, h⟩ := onOk_next.1 h
      split at h
      · cases h
        exact .crashPut hp hl hu
      · cases h
        exact .crashLast hp hl hu

theorem execCrashLog_move (h : execCrashLog s = .next t) : CommandMove s .crashLog t := by
  unfold execCrashLog at h
  split at h
  · next p hp => exact crashCopy_move hp h
  · next hp =>
    have hfirst : RunsFirst .crashLog s.phase := by
      intro hf
      cases hs : s.phase <;> simp_all [phaseFits]
    split at h
    · next code hc =>
      cases h
      exact .crashRefused hfirst hc
    · next hc =>
      cases h
      exact .crashSetup hfirst hc

/-- Every next state `exec` answers is one of the command's moves. -/
theorem exec_move {i : Instr} (h : exec i s = .next t) : CommandMove s i t := by
  cases i with
  | mapBoot d =>
    cases h
    exact .mapBoot d
  | mapDl =>
    cases h
    exact .mapDl
  | setMagic => exact execSetMagic_move h
  | prepare => exact execPrepare_move h
  | loadBin => exact loadStep_move (k := .bin) h
  | loadNv => exact loadStep_move (k := .nv) h
  | xmit => exact execXmit_move h
  | ulStep1 => exact execUlStep1_move h
  | ulStep2 => exact execUlStep2_move h
  | bootStart => exact execBootStart_move h
  | cpStart => exact execCpStart_move h
  | crashLog => exact execCrashLog_move h

/-! ### The units' steps -/

/-- A Command-unit step: no step while idle, the INVALID end of a word that is no command, its decoding, or a move of
the command. -/
theorem commandStep_next (h : commandStep s = .next t) :
    (s.busy = false ∧ t = s) ∨
      (s.busy = true ∧ currentCommand s = none ∧ t = finish .invalid s) ∨
      (s.busy = true ∧ (∃ i, currentCommand s = some i) ∧ s.phase = .decode ∧ t = { s with phase := .start }) ∨
      (s.busy = true ∧ s.phase ≠ .decode ∧ ∃ i, currentCommand s = some i ∧ CommandMove s i t) := by
  by_cases hb : s.busy = true
  · rcases commandStep_cases hb with ⟨hc, he⟩ | ⟨i, hc, ⟨hp, he⟩ | ⟨hp, he⟩⟩
    · rw [he] at h
      cases h
      exact .inr (.inl ⟨hb, hc, rfl⟩)
    · rw [he] at h
      cases h
      exact .inr (.inr (.inl ⟨hb, ⟨i, hc⟩, hp, rfl⟩))
    · exact .inr (.inr (.inr ⟨hb, hp, i, hc, exec_move (he ▸ h)⟩))
  · rw [commandStep, if_neg hb] at h
    cases h
    exact .inl ⟨Bool.not_eq_true _ ▸ hb, rfl⟩

/-- 41_download.md R95, R96: a Continuation-unit step: none, the per-frame step of a queued frame-ack, or an access of
its frame. -/
theorem continuationStep_next (h : continuationStep s = .next t) :
    t = s ∨
      (s.cont = .idle ∧ s.contPending = true ∧ s.lock = .free ∧ t = perFrame { s with contPending := false }) ∨
      (∃ p q u, s.cont = .frame p ∧ s.lock ≠ .command ∧
        frameAccess p { s with lock := .continuation } = .ok (some q, u) ∧ t = { u with cont := .frame q }) ∨
      (∃ p u, s.cont = .frame p ∧ s.lock ≠ .command ∧
        frameAccess p { s with lock := .continuation } = .ok (none, u) ∧ t = { u with cont := .idle, lock := .free }) := by
  unfold continuationStep at h
  split at h
  · next he =>
    unfold continuationEnabled at he
    split at h
    · next hc =>
      simp only [hc, Bool.and_eq_true, decide_eq_true_eq] at he
      cases h
      exact .inr (.inl ⟨hc, he.1, he.2, rfl⟩)
    · next p hc =>
      simp only [hc, decide_eq_true_eq] at he
      obtain ⟨⟨q, u⟩, hu, h⟩ := onOk_next.1 h
      cases q with
      | some q =>
        cases h
        exact .inr (.inr (.inl ⟨p, q, u, hc, he, hu, rfl⟩))
      | none =>
        cases h
        exact .inr (.inr (.inr ⟨p, u, hc, he, hu, rfl⟩))
  · cases h
    exact .inl rfl

/-- 43_notification.md R111: the four dispatches of a code. -/
theorem dispatchCode_cases (v : Code) (s : State) :
    (v = s.cfg.codeDlReady ∧ dispatchCode v s = setLatch .copyStarted s) ∨
      dispatchCode v s = { s with contPending := true } ∨
      (v = s.cfg.codeBooting ∧ dispatchCode v s = setLatch .bootComplete s) ∨
      dispatchCode v s = unrecognized v s := by
  unfold dispatchCode
  split
  · next hv => exact .inl ⟨hv, rfl⟩
  · split
    · exact .inr (.inl rfl)
    · split
      · next hv => exact .inr (.inr (.inl ⟨hv, rfl⟩))
      · exact .inr (.inr (.inr rfl))

/-- 43_notification.md R110: a Notification-unit step: none, or the dispatch of the code it takes. -/
theorem notificationStep_cases (s : State) :
    notificationStep s = s ∨
      (s.notifyEn = true ∧ s.pend = true ∧
        notificationStep s = dispatchCode s.mbxIn (raiseIrq irqNotifyRx (takeIn s).2)) := by
  unfold notificationStep
  split
  · next he =>
    simp only [notificationEnabled, Bool.and_eq_true] at he
    exact .inr ⟨he.1, he.2, rfl⟩
  · exact .inl rfl

end Sys2Proof.Machine

/-! PROOFS. The invariant of Safety.lean is kept by every step. -/

namespace Sys2Proof.Machine

/-! ### The invariant in two halves -/

/-- The parts of the invariant that speak of no phase of the Command unit. -/
structure DataOk (s : State) : Prop where
  memories : MemoriesOk s
  progress : ProgressOk s
  frame : FrameOk s
  tag : TagOk s
  map : MapOk s
  latch : LatchOk s
  contLock : s.lock = .continuation ↔ s.cont ≠ .idle
  contPos : contPosOk s = true

/-- The parts of the invariant that speak of the Command unit's phase. -/
structure CommandOk (s : State) : Prop where
  busy : BusyOk s
  lock : s.lock = .command ↔ midSequence s.phase = true
  phase : PhaseOk s
  poll : PollOk s
  line : UploadLineOk s
  sequencers : SequencersOk s
  position : positionOk s = true

theorem invariant_iff (s : State) : Invariant s ↔ DataOk s ∧ CommandOk s := by
  constructor
  · rintro ⟨hmem, hprog, hframe, htag, hmap, hbusy, ⟨hlock, hcont⟩, hphase, hlatch, hpoll, hline, hseq, hpos, hcpos⟩
    exact ⟨⟨hmem, hprog, hframe, htag, hmap, hlatch, hcont, hcpos⟩, ⟨hbusy, hlock, hphase, hpoll, hline, hseq, hpos⟩⟩
  · rintro ⟨d, c⟩
    exact ⟨d.memories, d.progress, d.frame, d.tag, d.map, c.busy, ⟨c.lock, d.contLock⟩, c.phase, d.latch, c.poll, c.line,
      c.sequencers, c.position, d.contPos⟩

/-- No sequencer is in a state in which a command waits (10_state.md R37 to R39). -/
structure Quiet (s : State) : Prop where
  notTransferring : s.dlState ≠ .transferring
  notAwaiting : s.dlState ≠ .awaitingPeerReady
  notHandshake : s.ulState ≠ .handshake
  notBooting : s.bootState ≠ .waitBooting

theorem Quiet.sequencersOk {s : State} (h : Quiet s) : SequencersOk s :=
  ⟨fun e => absurd e h.notTransferring, fun e => absurd e h.notAwaiting, fun e => absurd e h.notHandshake,
    fun e => absurd e h.notBooting⟩

/-- A command is accepted and running. -/
structure Running (i : Instr) (s : State) : Prop where
  busy : s.busy = true
  curOp : s.curOp = opcodeField s.cmdw
  command : currentCommand s = some i

variable {s t u : State} {i : Instr}

/-! ### What the invariant says of a running command -/

theorem CommandOk.idle_of_not_busy (h : CommandOk s) (hb : s.busy = false) : s.phase = .idle := by
  obtain ⟨hbusy, -⟩ := h.busy
  by_contra hp
  rw [hbusy.2 hp] at hb
  cases hb

theorem CommandOk.running (h : CommandOk s) (hb : s.busy = true) (hc : currentCommand s = some i) : Running i s :=
  ⟨hb, by
    obtain ⟨-, hop⟩ := h.busy
    rw [hop, if_pos hb], hc⟩

/-- A command that runs its first phase is in the phase its decoding left. -/
theorem RunsFirst.start (hf : RunsFirst i s.phase) (h : CommandOk s) (hr : Running i s) (hd : s.phase ≠ .decode) :
    s.phase = .start := by
  have hfit : phaseFits (some i) s.phase = true := hr.command ▸ h.phase
  obtain ⟨hbusy, -⟩ := h.busy
  rcases hf hfit with hp | hp | hp
  · exact absurd hp (hbusy.1 hr.busy)
  · exact absurd hp hd
  · exact hp

/-- Outside the phases its rules name for it, no sequencer waits. -/
theorem CommandOk.quiet_of_phase (h : CommandOk s) (hp : s.phase = .idle ∨ s.phase = .decode ∨ s.phase = .start) :
    Quiet s := by
  obtain ⟨hload, hprep, hul, hboot⟩ := h.sequencers
  rcases hp with hp | hp | hp <;> rw [hp] at hload hprep hul hboot <;>
    exact ⟨fun e => by simpa [loadPhase] using hload e, fun e => by simpa using hprep e,
      fun e => by simpa using hul e, fun e => by simpa using hboot e⟩

theorem CommandOk.quiet_of_invalid (h : CommandOk s) (hc : currentCommand s = none) : Quiet s := by
  obtain ⟨hload, hprep, hul, hboot⟩ := h.sequencers
  rw [hc] at hload hprep hul hboot
  exact ⟨fun e => by simpa using hload e, fun e => by simpa using hprep e, fun e => by simpa using hul e,
    fun e => by simpa using hboot e⟩

theorem CommandOk.not_transferring (h : CommandOk s) (hr : Running i s) (hb : i ≠ .loadBin) (hn : i ≠ .loadNv) :
    s.dlState ≠ .transferring := fun e => by
  obtain ⟨hload, -⟩ := h.sequencers
  simpa [hr.command, hb, hn] using hload e

theorem CommandOk.not_awaiting (h : CommandOk s) (hr : Running i s) (hi : i ≠ .prepare) :
    s.dlState ≠ .awaitingPeerReady := fun e => by
  obtain ⟨-, hprep, -⟩ := h.sequencers
  simpa [hr.command, hi] using hprep e

theorem CommandOk.not_handshake (h : CommandOk s) (hr : Running i s) (hi : i ≠ .ulStep1) :
    s.ulState ≠ .handshake := fun e => by
  obtain ⟨-, -, hul, -⟩ := h.sequencers
  simpa [hr.command, hi] using hul e

theorem CommandOk.not_booting (h : CommandOk s) (hr : Running i s) (hi : i ≠ .bootStart) :
    s.bootState ≠ .waitBooting := fun e => by
  obtain ⟨-, -, -, hboot⟩ := h.sequencers
  simpa [hr.command, hi] using hboot e

/-- A command that is no waiting sequencer's leaves every sequencer quiet. -/
theorem CommandOk.quiet_of_command (h : CommandOk s) (hr : Running i s)
    (hi : i ∉ [.loadBin, .loadNv, .prepare, .ulStep1, .bootStart]) : Quiet s := by
  simp only [List.mem_cons, List.not_mem_nil, or_false, not_or] at hi
  obtain ⟨h1, h2, h3, h4, h5⟩ := hi
  exact ⟨h.not_transferring hr h1 h2, h.not_awaiting hr h3, h.not_handshake hr h4, h.not_booting hr h5⟩

/-! ### Where a move of a command ends: `finish`, or another phase -/

theorem finish_dataOk (code : ResultCode) (h : DataOk s) : DataOk (finish code s) :=
  { h with contLock := by simpa using h.contLock }

theorem finish_commandOk (code : ResultCode) (h : Quiet s) : CommandOk (finish code s) where
  busy := ⟨by simp, by simp⟩
  lock := by simp [midSequence]
  phase := rfl
  poll := fun e => by simp at e
  line := fun e => by simp [uploadPhase] at e
  sequencers := Quiet.sequencersOk ⟨h.notTransferring, h.notAwaiting, h.notHandshake, h.notBooting⟩
  position := rfl

/-- 60_exceptions.md R119: a completion keeps the invariant when no sequencer is left waiting. -/
theorem finish_invariant (code : ResultCode) (hd : DataOk s) (hq : Quiet s) : Invariant (finish code s) :=
  (invariant_iff _).2 ⟨finish_dataOk code hd, finish_commandOk code hq⟩

theorem Running.commandOk (hr : Running i s) (hidle : s.phase ≠ .idle) (hfit : phaseFits (some i) s.phase = true)
    (hlock : s.lock = .command ↔ midSequence s.phase = true) (hpoll : PollOk s) (hline : UploadLineOk s)
    (hseq : SequencersOk s) (hpos : positionOk s = true) : CommandOk s where
  busy := ⟨⟨fun _ => hidle, fun _ => hr.busy⟩, by rw [hr.curOp, hr.busy]; rfl⟩
  lock := hlock
  phase := (congrArg (phaseFits · s.phase) hr.command).trans hfit
  poll := hpoll
  line := hline
  sequencers := hseq
  position := hpos

/-! ### What keeps the data half -/

theorem DataOk.takePort (h : DataOk s) (hl : s.lock ≠ .continuation) : DataOk { s with lock := .command } :=
  { h with contLock := ⟨fun e => by simp at e, fun e => absurd (h.contLock.2 e) hl⟩ }

theorem releaseCommand_dataOk (h : DataOk s) : DataOk (releaseCommand s) :=
  { h with contLock := by simpa [releaseCommand] using h.contLock }

theorem send_dataOk (c : Code) (h : DataOk s) : DataOk (send c s) := by
  rw [send_eq]
  exact { h with }

theorem memRead1_dataOk {a : Nat} {b : Byte} (hu : memRead1 a s = .ok (b, u)) (h : DataOk s) : DataOk u := by
  obtain ⟨-, e⟩ := memRead1_ok.1 hu
  cases e
  exact { h with }

theorem memRead4_dataOk {a : Nat} {v : Word} (hu : memRead4 a s = .ok (v, u)) (h : DataOk s) : DataOk u := by
  obtain ⟨-, -, e⟩ := memRead4_ok.1 hu
  cases e
  exact { h with }

theorem hostRead1_dataOk {a : Nat} {b : Byte} (hu : hostRead1 a s = .ok (b, u)) (h : DataOk s) : DataOk u := by
  obtain ⟨-, e⟩ := hostRead1_ok.1 hu
  cases e
  exact { h with }

theorem memWrite1_dataOk {a : Nat} {b : Byte} (hu : memWrite1 a b s = .ok u) (h : DataOk s) : DataOk u := by
  obtain ⟨ha, rfl⟩ := memWrite1_ok.1 hu
  obtain ⟨hw, hh, hiw, hih⟩ := h.memories
  exact { h with memories := ⟨Memory.wf_write _ _ hw, hh, Memory.within_write _ ha hiw, hih⟩ }

theorem memWrite4_dataOk {a : Nat} {v : Word} (hu : memWrite4 a v s = .ok u) (h : DataOk s) : DataOk u := by
  obtain ⟨-, ha, rfl⟩ := memWrite4_ok.1 hu
  obtain ⟨hw, hh, hiw, hih⟩ := h.memories
  exact { h with memories := ⟨Memory.wf_writeWord _ _ hw, hh, Memory.within_writeWord _ _ ha hiw, hih⟩ }

theorem hostWrite1_dataOk {a : Nat} {b : Byte} (hu : hostWrite1 a b s = .ok u) (h : DataOk s) : DataOk u := by
  obtain ⟨ha, rfl⟩ := hostWrite1_ok.1 hu
  obtain ⟨hw, hh, hiw, hih⟩ := h.memories
  exact { h with memories := ⟨hw, Memory.wf_write _ _ hh, hiw, Memory.within_write _ ha hih⟩ }

theorem frameAccess_dataOk {p : FramePos} {q : Option FramePos} (hu : frameAccess p s = .ok (q, u)) (h : DataOk s) :
    DataOk u := by
  have hfits : FrameMap.Fits s.cfg.shmSize s.cfg.bufCap s.map := by
    rw [h.map.1]
    exact namedMap_fits _ _ _
  obtain ⟨⟨hs4, ht4, hc4⟩, ⟨hsz, htg, hct, -⟩, -⟩ := hfits
  rcases frameAccess_cases hu with
    ⟨j, -, -, ha, e⟩ | ⟨j, -, -, e⟩ | ⟨j, b, -, ha, e⟩ | ⟨-, e⟩ | ⟨-, e⟩ | ⟨-, e⟩ <;> cases e
  · exact hostRead1_dataOk (hostRead1_ok.2 ⟨ha, rfl⟩) h
  · exact memWrite4_dataOk (memWrite4_ok.2 ⟨hs4, hsz, rfl⟩) h
  · exact memWrite1_dataOk (memWrite1_ok.2 ⟨ha, rfl⟩) h
  · exact memWrite4_dataOk (memWrite4_ok.2 ⟨ht4, htg, rfl⟩) h
  · exact memWrite4_dataOk (memWrite4_ok.2 ⟨hc4, hct, rfl⟩) h
  · exact send_dataOk _ h

/-- 41_download.md R88: past its first access a FrameTransfer is inside its access sequence, and a byte it holds goes
inside the buffer. -/
theorem frameAccess_position {p q : FramePos} (hu : frameAccess p s = .ok (some q, u))
    (hf : s.cur.frame.toNat ≤ s.cfg.bufCap) :
    framePosOk s.cfg.bufCap q = true ∧ midSequence (.frame q) = true := by
  rcases frameAccess_cases hu with
    ⟨j, -, hj, -, e⟩ | ⟨j, -, -, e⟩ | ⟨j, b, -, -, e⟩ | ⟨-, e⟩ | ⟨-, e⟩ | ⟨-, e⟩ <;> cases e
  · exact ⟨by simp only [framePosOk, decide_eq_true_eq]; omega, rfl⟩
  all_goals exact ⟨rfl, rfl⟩

/-! ### The counters and the descriptor -/

/-- A sequencer state other than TRANSFERRING may follow any other. -/
theorem DataOk.setDlState (h : DataOk s) {d : DlState} (hs : s.dlState ≠ .transferring) (hd : d ≠ .transferring) :
    DataOk { s with dlState := d } := by
  obtain ⟨hrem, hbuf, htop, -⟩ := h.frame
  exact { h with
    frame := ⟨hrem, hbuf, htop, fun e => absurd e hd⟩
    tag := ⟨fun _ => hd, fun _ => h.tag.2 hs⟩ }

/-- 41_download.md R92: a transfer whose bytes are all sent is not TRANSFERRING any more. -/
theorem DataOk.not_transferring_of_sent (h : DataOk s) (hs : s.prog.total.toNat ≤ s.prog.sent.toNat) :
    s.dlState ≠ .transferring := fun e => by
  obtain ⟨hrem, -, -, hpos⟩ := h.frame
  have hsum := h.progress
  have := hpos e
  omega

/-- The current frame fits the buffer (41_download.md R96). -/
theorem DataOk.frame_le_bufCap (h : DataOk s) : s.cur.frame.toNat ≤ s.cfg.bufCap := by
  obtain ⟨-, hbuf, -⟩ := h.frame
  exact hbuf

theorem prepareStart_dataOk (h : DataOk s) : DataOk (prepareStart s) :=
  { h with
    progress := rfl
    frame := ⟨Nat.le_refl _, Nat.zero_le _, Nat.zero_le _, fun e => by simp at e⟩
    tag := by simp [TagOk] }

theorem minWord_toNat (a b : Word) : (minWord a b).toNat = min a.toNat b.toNat := by
  unfold minWord
  split <;> omega

/-- 41_download.md R90: what CHECK has established when it passes. -/
theorem loadCheck_none (h : loadCheck s = none) :
    0 < s.ops.total.toNat ∧ 0 < s.ops.cap.toNat ∧ s.ops.cap.toNat ≤ s.cfg.bufCap ∧
      s.ops.src.toNat + s.ops.total.toNat ≤ 2 ^ s.cfg.hostAddrW := by
  unfold loadCheck at h
  split_ifs at h with hst htot hcap htop hmem
  simp only [passesHostTop, decide_eq_true_eq, not_lt, gt_iff_lt, not_or] at hcap htop
  refine ⟨?_, ?_, hcap.2, htop⟩
  · exact Nat.pos_of_ne_zero fun e => htot (BitVec.eq_of_toNat_eq e)
  · exact Nat.pos_of_ne_zero fun e => hcap.1 (BitVec.eq_of_toNat_eq e)

theorem nPrepare_ne_zero (c : Config) : c.nPrepare ≠ 0#32 := by
  obtain ⟨h, -⟩ := c.budgets
  exact h

theorem nBoot_ne_zero (c : Config) : c.nBoot ≠ 0#32 := by
  obtain ⟨-, -, -, h, -⟩ := c.budgets
  exact h

theorem nUlHs_ne_zero (c : Config) : c.nUlHs ≠ 0#32 := by
  obtain ⟨-, -, -, -, h, -⟩ := c.budgets
  exact h

theorem nUlFrame_ne_zero (c : Config) : c.nUlFrame ≠ 0#32 := by
  obtain ⟨-, -, -, -, -, h⟩ := c.budgets
  exact h

theorem LoadKind.tag_ne_zero (k : LoadKind) (c : Config) : k.tag c ≠ 0#32 := by
  obtain ⟨-, hb, hn⟩ := c.tags
  cases k
  · exact hb
  · exact hn

theorem LoadKind.budget_ne_zero (k : LoadKind) (c : Config) : k.budget c ≠ 0#32 := by
  obtain ⟨-, hn, hb, -⟩ := c.budgets
  cases k
  · exact hb
  · exact hn

theorem loadSetup_dataOk (k : LoadKind) (h : DataOk s) (hc : loadCheck s = none) : DataOk (loadSetup k s) := by
  obtain ⟨htot, hcap, hbuf, htop⟩ := loadCheck_none hc
  refine { h with progress := ?_, frame := ⟨?_, ?_, htop, fun _ => ?_⟩, tag := ?_ }
  · simp [ProgressOk]
  · simp only [loadSetup_cur, loadSetup_prog, minWord_toNat]
    omega
  · simp only [loadSetup_cur, loadSetup_cfg, minWord_toNat]
    omega
  · simp only [loadSetup_cur, minWord_toNat]
    omega
  · simp [TagOk, k.tag_ne_zero]

/-- 41_download.md R96: the frame sent leaves the counters adding up and a next frame that fits. -/
theorem advanceFrame_counters (h : DataOk s) :
    ProgressOk (advanceFrame s) ∧
      (advanceFrame s).cur.frame.toNat ≤ (advanceFrame s).prog.remain.toNat ∧
      (advanceFrame s).cur.frame.toNat ≤ s.cfg.bufCap ∧
      (advanceFrame s).cur.src.toNat + (advanceFrame s).prog.remain.toNat ≤ 2 ^ s.cfg.hostAddrW ∧
      (0 < s.cur.frame.toNat → (advanceFrame s).prog.sent.toNat < (advanceFrame s).prog.total.toNat →
        0 < (advanceFrame s).cur.frame.toNat) := by
  obtain ⟨hrem, hbuf, htop, -⟩ := h.frame
  have hsum := h.progress
  have htot := s.prog.total.isLt
  have hremain : (s.prog.remain - s.cur.frame).toNat = s.prog.remain.toNat - s.cur.frame.toNat :=
    BitVec.toNat_sub_of_le hrem
  have hsent : (s.prog.sent + s.cur.frame).toNat = s.prog.sent.toNat + s.cur.frame.toNat := by
    rw [BitVec.toNat_add, Nat.mod_eq_of_lt (by omega)]
  have hsrc : (s.cur.src + s.cur.frame).toNat ≤ s.cur.src.toNat + s.cur.frame.toNat := by
    rw [BitVec.toNat_add]
    exact Nat.mod_le _ _
  simp only [ProgressOk, advanceFrame, minWord_toNat, hremain, hsent]
  refine ⟨?_, ?_, ?_, ?_, ?_⟩ <;> omega

/-- 41_download.md R96: the per-frame step keeps the data half, whichever of its three ends it takes. -/
theorem perFrame_dataOk (h : DataOk s) : DataOk (perFrame s) := by
  obtain ⟨-, -, -, hnonempty⟩ := h.frame
  obtain ⟨hsum, hrem, hbuf, htop, hpos⟩ := advanceFrame_counters h
  unfold perFrame
  split_ifs with htr hdone
  · exact h
  · exact { h with progress := hsum, frame := ⟨hrem, hbuf, htop, fun e => by simp at e⟩, tag := by simp [TagOk] }
  · rw [not_not] at htr
    refine { h with
      progress := hsum, frame := ⟨hrem, hbuf, htop, fun _ => hpos (hnonempty htr) (by omega)⟩,
      contLock := by simp, contPos := rfl }

/-! ### The two kinds of phase a running command moves to -/

/-- Past the first access of an access sequence. -/
theorem Running.inSequence (hr : Running i s) (hd : DataOk s) (hlock : s.lock = .command)
    (hmid : midSequence s.phase = true) (hfit : phaseFits (some i) s.phase = true) (hline : UploadLineOk s)
    (hseq : SequencersOk s) (hpos : positionOk s = true) : Invariant s := by
  have hne {ph : Phase} (hph : midSequence ph = false) : s.phase ≠ ph := fun e => by
    rw [e, hph] at hmid
    cases hmid
  refine (invariant_iff s).2 ⟨hd, hr.commandOk (hne rfl) hfit (by simp [hlock, hmid]) ?_ hline hseq hpos⟩
  rintro (e | e)
  · exact absurd e (hne rfl)
  · exact absurd e (hne rfl)

/-- Outside access sequences. -/
theorem Running.betweenAccesses (hr : Running i s) (hd : DataOk s) (hlock : s.lock ≠ .command)
    (hmid : midSequence s.phase = false) (hidle : s.phase ≠ .idle) (hfit : phaseFits (some i) s.phase = true)
    (hpoll : PollOk s) (hline : UploadLineOk s) (hseq : SequencersOk s) (hpos : positionOk s = true) : Invariant s :=
  (invariant_iff s).2 ⟨hd, hr.commandOk hidle hfit (by simp [hlock, hmid]) hpoll hline hseq hpos⟩

/-- In a phase that is not inside an access sequence the Command unit does not hold the port. -/
theorem CommandOk.lock_ne_command (h : CommandOk s) (hmid : midSequence s.phase = false) : s.lock ≠ .command :=
  fun e => by simp [h.lock.1 e] at hmid

/-! ### What positionOk says of a command's copy -/

theorem positionOk_xmit {p : XmitPos} (hp : s.phase = .xmit p) :
    positionOk s = true ↔
      s.ops.total.toNat ≤ s.cfg.bufCap ∧ passesHostTop s.cfg s.ops.src.toNat s.ops.total.toNat = false ∧
        ∀ j b, p = .put j b → j < s.ops.total.toNat := by
  cases p <;> simp [positionOk, hp, and_assoc]

theorem positionOk_crash {p : CrashPos} (hp : s.phase = .crash p) :
    positionOk s = true ↔
      passesHostTop s.cfg s.ops.crashDst.toNat s.cfg.crashLen = false ∧ ∀ j b, p = .put j b → j < s.cfg.crashLen := by
  cases p <;> simp [positionOk, hp]

/-- 41_download.md R99: what XMIT's CHECK has established when it passes. -/
theorem xmitCheck_none (h : xmitCheck s = none) :
    s.ops.total.toNat ≤ s.cfg.bufCap ∧ passesHostTop s.cfg s.ops.src.toNat s.ops.total.toNat = false := by
  unfold xmitCheck at h
  split_ifs at h with htot htop
  simp only [gt_iff_lt, not_or, not_lt] at htot
  exact ⟨htot.2, Bool.not_eq_true _ ▸ htop⟩

theorem crashCheck_none (h : crashCheck s = none) :
    passesHostTop s.cfg s.ops.crashDst.toNat s.cfg.crashLen = false := by
  unfold crashCheck at h
  split_ifs at h with htop
  exact Bool.not_eq_true _ ▸ htop

/-! ### The moves -/

/-- A failed poll check leaves an iteration. -/
theorem pollMiss_invariant (h : Invariant s) (hl : s.pollLeft ≠ 1#32) :
    Invariant { s with pollLeft := s.pollLeft - 1#32 } := by
  obtain ⟨hd, hc⟩ := (invariant_iff s).1 h
  exact (invariant_iff _).2 ⟨{ hd with }, { hc with poll := fun _ e => hl (by bv_omega) }⟩

/-! ### One access of a Command-unit access sequence -/

/-- `u` is `s` after an access of the Command unit, which then holds the port. -/
def Accessed (s u : State) : Prop :=
  DataOk u ∧ ∃ f, AccessFrame { s with lock := .command, ulLast := f } u

theorem memRead1_accessed {a : Nat} {b : Byte} (hd : DataOk s) (hl : s.lock ≠ .continuation)
    (hu : memRead1 a { s with lock := .command } = .ok (b, u)) : Accessed s u :=
  ⟨memRead1_dataOk hu (hd.takePort hl), _, memRead1_frame hu⟩

theorem memRead4_accessed {a : Nat} {v : Word} (hd : DataOk s) (hl : s.lock ≠ .continuation)
    (hu : memRead4 a { s with lock := .command } = .ok (v, u)) : Accessed s u :=
  ⟨memRead4_dataOk hu (hd.takePort hl), _, memRead4_frame hu⟩

theorem hostRead1_accessed {a : Nat} {b : Byte} (hd : DataOk s) (hl : s.lock ≠ .continuation)
    (hu : hostRead1 a { s with lock := .command } = .ok (b, u)) : Accessed s u :=
  ⟨hostRead1_dataOk hu (hd.takePort hl), _, hostRead1_frame hu⟩

theorem memWrite1_accessed {a : Nat} {b : Byte} (hd : DataOk s) (hl : s.lock ≠ .continuation)
    (hu : memWrite1 a b { s with lock := .command } = .ok u) : Accessed s u :=
  ⟨memWrite1_dataOk hu (hd.takePort hl), _, memWrite1_frame hu⟩

theorem memWrite4_accessed {a : Nat} {v : Word} (hd : DataOk s) (hl : s.lock ≠ .continuation)
    (hu : memWrite4 a v { s with lock := .command } = .ok u) : Accessed s u :=
  ⟨memWrite4_dataOk hu (hd.takePort hl), _, memWrite4_frame hu⟩

theorem hostWrite1_accessed {a : Nat} {b : Byte} (hd : DataOk s) (hl : s.lock ≠ .continuation)
    (hu : hostWrite1 a b { s with lock := .command } = .ok u) : Accessed s u :=
  ⟨hostWrite1_dataOk hu (hd.takePort hl), _, hostWrite1_frame hu⟩

theorem send_accessed (c : Code) (hd : DataOk s) (hl : s.lock ≠ .continuation) :
    Accessed s (send c { s with lock := .command }) :=
  ⟨send_dataOk c (hd.takePort hl), _, send_frame c _⟩

theorem frameAccess_accessed {p : FramePos} {q : Option FramePos} (hd : DataOk s) (hl : s.lock ≠ .continuation)
    (hu : frameAccess p { s with lock := .command } = .ok (q, u)) : Accessed s u :=
  ⟨frameAccess_dataOk hu (hd.takePort hl), _, frameAccess_frame hu⟩

theorem Accessed.setUlLast (h : Accessed s u) (f : UploadFields) : Accessed s { u with ulLast := f } := by
  obtain ⟨hdu, g, w, m, x, l, es, rfl⟩ := h
  exact ⟨{ hdu with }, f, _, _, _, _, _, rfl⟩

/-- The command goes on inside its access sequence. -/
theorem Accessed.inSequence (h : Accessed s u) (hr : Running i s) {ph : Phase} (hmid : midSequence ph = true)
    (hfit : phaseFits (some i) ph = true) (hline : uploadPhase ph = true → s.notifyEn = false)
    (hseq : SequencersOk { s with phase := ph }) (hpos : positionOk { s with phase := ph } = true) :
    Invariant { u with phase := ph } := by
  obtain ⟨hdu, f, w, m, x, l, es, rfl⟩ := h
  exact Running.inSequence (i := i) { hr with } { hdu with } rfl hmid hfit hline hseq hpos

/-- The access was the command's last. -/
theorem Accessed.finish (h : Accessed s u) (code : ResultCode) (hq : Quiet s) : Invariant (finish code u) := by
  obtain ⟨hdu, f, w, m, x, l, es, rfl⟩ := h
  exact finish_invariant code hdu { hq with }

theorem Quiet.setPhase (h : Quiet s) (ph : Phase) : SequencersOk { s with phase := ph } :=
  Quiet.sequencersOk { h with }

section Moves

variable (hd : DataOk s) (hc : CommandOk s)
include hd hc

theorem prepareStart_invariant (hr : Running .prepare s) (hp : s.phase = .start) :
    Invariant (startPoll s.cfg.nPrepare .wait (prepareStart s)) := by
  have hq := hc.quiet_of_phase (.inr (.inr hp))
  refine Running.betweenAccesses (i := .prepare) { hr with } { prepareStart_dataOk hd with }
    (hc.lock_ne_command (by rw [hp]; rfl)) rfl (by simp) rfl (fun _ => nPrepare_ne_zero _)
    (fun e => by simp [uploadPhase] at e) ⟨fun e => by simp at e, fun _ => ⟨rfl, hr.command⟩, ?_, ?_⟩ rfl
  · exact fun e => absurd e hq.notHandshake
  · exact fun e => absurd e hq.notBooting

theorem loadSetup_invariant (k : LoadKind) (hr : Running k.instr s) (hp : s.phase = .start)
    (hchk : loadCheck s = none) : Invariant { loadSetup k s with phase := .frame (.byte 0) } := by
  have hq := hc.quiet_of_phase (.inr (.inr hp))
  refine Running.betweenAccesses (i := k.instr) { hr with } { loadSetup_dataOk k hd hchk with }
    (hc.lock_ne_command (by rw [hp]; rfl)) rfl (by simp) (by cases k <;> rfl) (fun e => by simp at e)
    (fun e => by simp [uploadPhase] at e) ⟨fun _ => ⟨rfl, ?_⟩, fun e => by simp at e, ?_, ?_⟩ rfl
  · cases k
    · exact .inl hr.command
    · exact .inr hr.command
  · exact fun e => absurd e hq.notHandshake
  · exact fun e => absurd e hq.notBooting

omit hd in
/-- What a LOAD in its frame or its wait keeps true of the sequencers. -/
theorem load_sequencersOk {k : LoadKind} (hr : Running k.instr s) {ph : Phase} (hload : loadPhase ph = true) :
    SequencersOk { s with phase := ph } := by
  refine ⟨fun e => ⟨hload, (hc.sequencers.1 e).2⟩, fun e => absurd e (hc.not_awaiting hr ?_),
    fun e => absurd e (hc.not_handshake hr ?_), fun e => absurd e (hc.not_booting hr ?_)⟩ <;> cases k <;> decide

theorem loadAccess_invariant (k : LoadKind) (hr : Running k.instr s) {p q : FramePos} (hl : s.lock ≠ .continuation)
    (hu : frameAccess p { s with lock := .command } = .ok (some q, u)) : Invariant { u with phase := .frame q } := by
  obtain ⟨hpos, hmid⟩ := frameAccess_position hu hd.frame_le_bufCap
  exact (frameAccess_accessed hd hl hu).inSequence hr hmid (by cases k <;> rfl) (fun e => by simp [uploadPhase] at e)
    (load_sequencersOk hc hr rfl) hpos

theorem loadSent_invariant (k : LoadKind) (hr : Running k.instr s) {p : FramePos} (hl : s.lock ≠ .continuation)
    (hu : frameAccess p { s with lock := .command } = .ok (none, u)) :
    Invariant (startPoll (k.budget u.cfg) .wait (releaseCommand u)) := by
  obtain ⟨hdu, f, w, m, x, l, es, rfl⟩ := frameAccess_accessed hd hl hu
  exact Running.betweenAccesses (i := k.instr) { hr with } { releaseCommand_dataOk hdu with } (by simp) rfl (by simp)
    (by cases k <;> rfl) (fun _ => k.budget_ne_zero _) (fun e => by simp [uploadPhase] at e)
    (load_sequencersOk hc hr rfl) rfl

theorem loadDone_invariant (k : LoadKind) (hr : Running k.instr s) (hcc : (sizeCheck s).copyComplete = true) :
    Invariant (finish .ok (consumeLatch .copyComplete (sizeCheck s))) := by
  unfold sizeCheck at hcc ⊢
  split_ifs at hcc ⊢ with hsent
  · refine finish_invariant _ { hd with latch := rfl } ⟨hd.not_transferring_of_sent hsent, ?_, ?_, ?_⟩
    · exact hc.not_awaiting hr (by cases k <;> decide)
    · exact hc.not_handshake hr (by cases k <;> decide)
    · exact hc.not_booting hr (by cases k <;> decide)
  · exact absurd hcc (by simp [hd.latch])

theorem loadTimeout_invariant (k : LoadKind) (hr : Running k.instr s) :
    Invariant (finish .timeout
      { s with
        pollLeft := 0#32
        dlState := .timeoutFailed
        cur := { s.cur with tag := 0#32 }
        contPending := false }) := by
  obtain ⟨hrem, hbuf, htop, -⟩ := hd.frame
  refine finish_invariant _
    { hd with frame := ⟨hrem, hbuf, htop, fun e => by simp at e⟩, tag := by simp [TagOk] }
    ⟨by simp, by simp, ?_, ?_⟩
  · exact hc.not_handshake hr (by cases k <;> decide)
  · exact hc.not_booting hr (by cases k <;> decide)

theorem xmitSetup_invariant (hr : Running .xmit s) (hp : s.phase = .start) (hchk : xmitCheck s = none) :
    Invariant { s with phase := .xmit (.byte 0) } := by
  have hq := hc.quiet_of_phase (.inr (.inr hp))
  obtain ⟨htot, htop⟩ := xmitCheck_none hchk
  exact Running.betweenAccesses (i := .xmit) { hr with } { hd with } (hc.lock_ne_command (by rw [hp]; rfl)) rfl (by simp)
    rfl (fun e => by simp at e) (fun e => by simp [uploadPhase] at e) (hq.setPhase _)
    ((positionOk_xmit rfl).2 ⟨htot, htop, by simp⟩)

omit hd in
theorem xmitAccess_invariant (hr : Running .xmit s) {p q : XmitPos} (hp : s.phase = .xmit p) (hu : Accessed s u)
    (hmid : midSequence (.xmit q) = true) (hput : ∀ j b, q = .put j b → j < s.ops.total.toNat) :
    Invariant { u with phase := .xmit q } := by
  have hq := hc.quiet_of_command hr (by decide)
  obtain ⟨htot, htop, -⟩ := (positionOk_xmit hp).1 hc.position
  exact hu.inSequence hr hmid rfl (fun e => by simp [uploadPhase] at e) (hq.setPhase _)
    ((positionOk_xmit rfl).2 ⟨htot, htop, hput⟩)

theorem crashSetup_invariant (hr : Running .crashLog s) (hp : s.phase = .start) (hchk : crashCheck s = none) :
    Invariant { s with phase := .crash (.byte 0) } := by
  have hq := hc.quiet_of_phase (.inr (.inr hp))
  exact Running.betweenAccesses (i := .crashLog) { hr with } { hd with } (hc.lock_ne_command (by rw [hp]; rfl)) rfl
    (by simp) rfl (fun e => by simp at e) (fun e => by simp [uploadPhase] at e) (hq.setPhase _)
    ((positionOk_crash rfl).2 ⟨crashCheck_none hchk, by simp⟩)

omit hd in
theorem crashAccess_invariant (hr : Running .crashLog s) {p q : CrashPos} (hp : s.phase = .crash p) (hu : Accessed s u)
    (hmid : midSequence (.crash q) = true) (hput : ∀ j b, q = .put j b → j < s.cfg.crashLen) :
    Invariant { u with phase := .crash q } := by
  have hq := hc.quiet_of_command hr (by decide)
  obtain ⟨htop, -⟩ := (positionOk_crash hp).1 hc.position
  exact hu.inSequence hr hmid rfl (fun e => by simp [uploadPhase] at e) (hq.setPhase _)
    ((positionOk_crash rfl).2 ⟨htop, hput⟩)

theorem ulStep2Start_invariant (hr : Running .ulStep2 s) (hp : s.phase = .start) :
    Invariant (startPoll s.cfg.nUlFrame .poll { s with notifyEn := false }) := by
  have hq := hc.quiet_of_phase (.inr (.inr hp))
  exact Running.betweenAccesses (i := .ulStep2) { hr with } { hd with } (hc.lock_ne_command (by rw [hp]; rfl)) rfl
    (by simp) rfl (fun _ => nUlFrame_ne_zero _) (fun _ => rfl) (Quiet.sequencersOk { hq with }) rfl

theorem ulStep2Taken_invariant (hr : Running .ulStep2 s) (hp : s.phase = .poll) :
    Invariant { (takeIn s).2 with phase := .upload .size } := by
  have hq := hc.quiet_of_command hr (by decide)
  exact Running.betweenAccesses (i := .ulStep2) { hr with } { hd with } (hc.lock_ne_command (by rw [hp]; rfl)) rfl
    (by simp) rfl (fun e => by simp at e) (fun _ => hc.line (by rw [hp]; rfl)) (Quiet.sequencersOk { hq with }) rfl

omit hd in
theorem uploadAccess_invariant (hr : Running .ulStep2 s) {p q : UploadPos} (hp : s.phase = .upload p)
    (hu : Accessed s u) (hmid : midSequence (.upload q) = true)
    (hpos : positionOk { s with phase := .upload q } = true) : Invariant { u with phase := .upload q } := by
  have hq := hc.quiet_of_command hr (by decide)
  exact hu.inSequence hr hmid rfl (fun _ => hc.line (by rw [hp]; rfl)) (hq.setPhase _) hpos

theorem uploadAck_invariant (hr : Running .ulStep2 s) (tag : Word) (hl : s.lock ≠ .continuation) :
    Invariant (uploadAck tag { s with lock := .command }) := by
  have hq := hc.quiet_of_command hr (by decide)
  have hu := send_accessed s.cfg.codeUlFrameAck hd hl
  unfold uploadAck
  split
  · refine finish_invariant _ { hu.1 with } ⟨?_, ?_, by simp, ?_⟩
    · simpa using hq.notTransferring
    · simpa using hq.notAwaiting
    · simpa using hq.notBooting
  · exact hu.finish _ hq

omit hd in
/-- 42_upload.md R100: the failure exit of both upload commands. -/
theorem ulFailed_invariant (hr : Running i s) (hi : i = .ulStep1 ∨ i = .ulStep2) (code : ResultCode) (hdu : DataOk u)
    (hdl : u.dlState = s.dlState) (hul : u.ulState = .timeoutFailed) (hbt : u.bootState = s.bootState) :
    Invariant (finish code u) := by
  obtain ⟨hbin, hnv, hprep, hboot⟩ : i ≠ .loadBin ∧ i ≠ .loadNv ∧ i ≠ .prepare ∧ i ≠ .bootStart := by
    rcases hi with rfl | rfl <;> decide
  refine finish_invariant code hdu ⟨?_, ?_, by simp [hul], ?_⟩
  · exact hdl ▸ hc.not_transferring hr hbin hnv
  · exact hdl ▸ hc.not_awaiting hr hprep
  · exact hbt ▸ hc.not_booting hr hboot

/-- 10_state.md R38: UL_STEP1 stays in its handshake, the notification line down. -/
theorem handshake_invariant (hr : Running .ulStep1 s)
    (ht : ∃ ph n b e st es, t =
      { s with phase := ph, pollLeft := n, pend := b, notifyEn := e, ulState := st, history := es })
    (hlock : s.lock ≠ .command) (hph : t.phase = .poll ∨ t.phase = .lastChance ∨ t.phase = .success)
    (hpoll : t.phase = .poll → t.pollLeft ≠ 0#32) (hline : t.notifyEn = false) : Invariant t := by
  obtain ⟨ph, n, b, e, st, es, rfl⟩ := ht
  have hfacts : midSequence ph = false ∧ ph ≠ .idle ∧ ph ≠ .wait ∧ phaseFits (some .ulStep1) ph = true := by
    rcases hph with rfl | rfl | rfl <;> simp [midSequence, phaseFits]
  obtain ⟨hmid, hidle, hwait, hfit⟩ := hfacts
  refine Running.betweenAccesses (i := .ulStep1) { hr with } { hd with } hlock hmid hidle hfit ?_ (fun _ => hline)
    ⟨fun e => absurd e (hc.not_transferring hr ?_ ?_), fun e => absurd e (hc.not_awaiting hr ?_),
      fun _ => ⟨hph, hr.command⟩, fun e => absurd e (hc.not_booting hr ?_)⟩ ?_
  · rintro (e | e)
    · exact absurd e hwait
    · exact hpoll e
  · decide
  · decide
  · decide
  · decide
  · rcases hph with rfl | rfl | rfl <;> rfl

theorem bootStart_invariant (hr : Running .bootStart s) (hp : s.phase = .start) (hl : s.lock ≠ .continuation) :
    Invariant (startPoll s.cfg.nBoot .wait
      (releaseCommand (send s.cfg.codeStartExec { s with lock := .command, bootState := .waitBooting }))) := by
  have hq := hc.quiet_of_phase (.inr (.inr hp))
  have hd' : DataOk { s with lock := .command, bootState := .waitBooting } := { hd.takePort hl with }
  have hdu := releaseCommand_dataOk (send_dataOk s.cfg.codeStartExec hd')
  rw [send_eq] at hdu ⊢
  exact Running.betweenAccesses (i := .bootStart) { hr with } { hdu with } (by simp) rfl (by simp) rfl
    (fun _ => nBoot_ne_zero _) (fun e => by simp [uploadPhase] at e)
    ⟨fun e => absurd e hq.notTransferring, fun e => absurd e hq.notAwaiting, fun e => absurd e hq.notHandshake,
      fun _ => ⟨rfl, hr.command⟩⟩ rfl

end Moves

/-- 30_encoding.md R76: decoding keeps the invariant. -/
theorem decoded_invariant (h : Invariant s) (hr : Running i s) (hp : s.phase = .decode) :
    Invariant { s with phase := .start } := by
  obtain ⟨hd, hc⟩ := (invariant_iff s).1 h
  have hq := hc.quiet_of_phase (.inr (.inl hp))
  exact Running.betweenAccesses (i := i) { hr with } { hd with } (hc.lock_ne_command (by rw [hp]; rfl)) rfl (by simp)
    (by cases i <;> rfl) (fun e => by simp at e) (fun e => by simp [uploadPhase] at e) (hq.setPhase _) rfl

theorem positionOk_uploadByte {size tag : Word} {j : Nat} (hp : s.phase = .upload (.byte size tag j)) :
    positionOk s = true ↔ uploadSizeBad s size = false := by
  simp [positionOk, hp]

theorem positionOk_uploadPut {size tag : Word} {j : Nat} {b : Byte} (hp : s.phase = .upload (.put size tag j b)) :
    positionOk s = true ↔ uploadSizeBad s size = false ∧ j < size.toNat := by
  simp [positionOk, hp]

/-- The size check reads only what an access leaves. -/
theorem Accessed.uploadSizeBad (h : Accessed s u) (size : Word) : uploadSizeBad u size = uploadSizeBad s size := by
  obtain ⟨-, f, w, m, x, l, es, rfl⟩ := h
  rfl

/-- Every move of a command keeps the invariant. -/
theorem CommandMove.invariant (hm : CommandMove s i t) (h : Invariant s) (hr : Running i s) (hnd : s.phase ≠ .decode) :
    Invariant t := by
  obtain ⟨hd, hc⟩ := (invariant_iff s).1 h
  cases hm with
  | held => exact h
  | pollMiss _ _ hl => exact pollMiss_invariant h hl
  | mapBoot d =>
    exact finish_invariant _ { hd with map := ⟨rfl, fun e => by simp at e⟩ }
      { hc.quiet_of_command hr (by simp) with }
  | mapDl =>
    exact finish_invariant _ { hd with map := ⟨rfl, fun _ => rfl⟩ } { hc.quiet_of_command hr (by decide) with }
  | setMagic hl hu => exact (memWrite4_accessed hd hl hu).finish _ (hc.quiet_of_command hr (by decide))
  | prepareStart hp => exact prepareStart_invariant hd hc hr (hp.start hc hr hnd)
  | prepareReady =>
    have hd' := hd.setDlState (d := .peerReady) (hc.not_transferring hr (by decide) (by decide)) (by decide)
    exact finish_invariant _ { hd' with }
      ⟨by simp, by simp, hc.not_handshake hr (by decide), hc.not_booting hr (by decide)⟩
  | prepareTimeout =>
    have hd' := hd.setDlState (d := .timeoutFailed) (hc.not_transferring hr (by decide) (by decide)) (by decide)
    exact finish_invariant _ { hd' with }
      ⟨by simp, by simp, hc.not_handshake hr (by decide), hc.not_booting hr (by decide)⟩
  | loadRefused k hp =>
    exact finish_invariant _ hd (hc.quiet_of_phase (.inr (.inr (hp.start hc hr hnd))))
  | loadSetup k hp hchk => exact loadSetup_invariant hd hc k hr (hp.start hc hr hnd) hchk
  | loadAccess k hp hl hu => exact loadAccess_invariant hd hc k hr hl hu
  | loadSent k hp hl hu => exact loadSent_invariant hd hc k hr hl hu
  | loadDone k hp hcc => exact loadDone_invariant hd hc k hr hcc
  | loadTimeout k => exact loadTimeout_invariant hd hc k hr
  | xmitRefused hp => exact finish_invariant _ hd (hc.quiet_of_phase (.inr (.inr (hp.start hc hr hnd))))
  | xmitSetup hp hchk => exact xmitSetup_invariant hd hc hr (hp.start hc hr hnd) hchk
  | xmitRead hp hl hi hu =>
    refine xmitAccess_invariant hc hr hp (hostRead1_accessed hd hl hu) rfl ?_
    rintro j b ⟨⟩
    exact hi
  | xmitSize hp hl hu => exact xmitAccess_invariant hc hr hp (memWrite4_accessed hd hl hu) rfl (by simp)
  | xmitPut hp hl hu => exact xmitAccess_invariant hc hr hp (memWrite1_accessed hd hl hu) rfl (by simp)
  | xmitSend hp hl => exact (send_accessed _ hd hl).finish _ (hc.quiet_of_command hr (by decide))
  | ulStep1Start hp =>
    exact handshake_invariant hd hc hr ⟨_, _, _, _, _, _, rfl⟩
      (hc.lock_ne_command (by rw [hp.start hc hr hnd]; rfl)) (.inl rfl) (fun _ => nUlHs_ne_zero _) rfl
  | ulStep1Taken hp =>
    exact handshake_invariant hd hc hr ⟨_, _, _, _, _, _, rfl⟩ (hc.lock_ne_command (by rw [hp]; rfl)) (.inr (.inr rfl))
      (fun e => by simp at e) (hc.line (by rw [hp]; rfl))
  | ulStep1PollOut hp =>
    exact handshake_invariant hd hc hr ⟨_, _, _, _, _, _, rfl⟩ (hc.lock_ne_command (by rw [hp]; rfl)) (.inr (.inl rfl))
      (fun e => by simp at e) (hc.line (by rw [hp]; rfl))
  | ulStep1LastTaken hp =>
    exact handshake_invariant hd hc hr ⟨_, _, _, _, _, _, rfl⟩ (hc.lock_ne_command (by rw [hp]; rfl)) (.inr (.inr rfl))
      (fun e => by simp at e) (hc.line (by rw [hp]; rfl))
  | ulStep1Mismatch => exact ulFailed_invariant hc hr (.inl rfl) _ { hd with } rfl rfl rfl
  | ulStep1Timeout => exact ulFailed_invariant hc hr (.inl rfl) _ { hd with } rfl rfl rfl
  | ulStep1Success hp hl =>
    refine finish_invariant _ { (send_accessed s.cfg.codeUlBegin hd hl).1 with } ⟨?_, ?_, by simp, ?_⟩
    · simpa using hc.not_transferring hr (by decide) (by decide)
    · simpa using hc.not_awaiting hr (by decide)
    · simpa using hc.not_booting hr (by decide)
  | ulStep2Refused => exact finish_invariant _ hd (hc.quiet_of_command hr (by decide))
  | ulStep2Start hp => exact ulStep2Start_invariant hd hc hr (hp.start hc hr hnd)
  | ulStep2Taken hp => exact ulStep2Taken_invariant hd hc hr hp
  | ulStep2Mismatch => exact ulFailed_invariant hc hr (.inr rfl) _ { hd with } rfl rfl rfl
  | ulStep2Timeout => exact ulFailed_invariant hc hr (.inr rfl) _ { hd with } rfl rfl rfl
  | uploadSize hp hl hu => exact uploadAccess_invariant hc hr hp (memRead4_accessed hd hl hu) rfl rfl
  | uploadTag hp hl hu => exact uploadAccess_invariant hc hr hp (memRead4_accessed hd hl hu) rfl rfl
  | uploadRefused hp hl hu =>
    obtain ⟨hdu, f, w, m, x, l, es, rfl⟩ := memRead4_accessed hd hl hu
    exact ulFailed_invariant hc hr (.inr rfl) _ { hdu with } rfl rfl rfl
  | uploadFields hp hl hs hu =>
    have ha := memRead4_accessed hd hl hu
    rw [ha.uploadSizeBad] at hs
    exact uploadAccess_invariant hc hr hp (ha.setUlLast _) rfl ((positionOk_uploadByte rfl).2 hs)
  | uploadRead hp hl hi hu =>
    exact uploadAccess_invariant hc hr hp (memRead1_accessed hd hl hu) rfl
      ((positionOk_uploadPut rfl).2 ⟨(positionOk_uploadByte hp).1 hc.position, hi⟩)
  | uploadPut hp hl hu =>
    exact uploadAccess_invariant hc hr hp (hostWrite1_accessed hd hl hu) rfl
      ((positionOk_uploadByte rfl).2 ((positionOk_uploadPut hp).1 hc.position).1)
  | uploadAck hp hl => exact uploadAck_invariant hd hc hr _ hl
  | bootStart hp hl => exact bootStart_invariant hd hc hr (hp.start hc hr hnd) hl
  | bootReady =>
    exact finish_invariant _ { hd with }
      ⟨hc.not_transferring hr (by decide) (by decide), hc.not_awaiting hr (by decide), hc.not_handshake hr (by decide),
        by simp⟩
  | bootTimeout =>
    exact finish_invariant _ { hd with }
      ⟨hc.not_transferring hr (by decide) (by decide), hc.not_awaiting hr (by decide), hc.not_handshake hr (by decide),
        by simp⟩
  | cpStart hl =>
    have hq := hc.quiet_of_command hr (by decide)
    refine finish_invariant _ { (send_accessed (s.cfg.codeInitEnd ||| s.cfg.initCaps) hd hl).1 with } ⟨?_, ?_, ?_, by simp⟩
    · simpa using hq.notTransferring
    · simpa using hq.notAwaiting
    · simpa using hq.notHandshake
  | crashRefused hp => exact finish_invariant _ hd (hc.quiet_of_command hr (by decide))
  | crashSetup hp hchk => exact crashSetup_invariant hd hc hr (hp.start hc hr hnd) hchk
  | crashRead hp hl hi hu =>
    refine crashAccess_invariant hc hr hp (memRead1_accessed hd hl hu) rfl ?_
    rintro j b ⟨⟩
    exact hi
  | crashEmpty => exact finish_invariant _ hd (hc.quiet_of_command hr (by decide))
  | crashPut hp hl hu => exact crashAccess_invariant hc hr hp (hostWrite1_accessed hd hl hu) rfl (by simp)
  | crashLast hp hl hu => exact (hostWrite1_accessed hd hl hu).finish _ (hc.quiet_of_command hr (by decide))

/-- A Command-unit step keeps the invariant. -/
theorem commandStep_invariant (h : Invariant s) (hs : commandStep s = .next t) : Invariant t := by
  obtain ⟨hd, hc⟩ := (invariant_iff s).1 h
  rcases commandStep_next hs with ⟨-, rfl⟩ | ⟨-, hcmd, rfl⟩ | ⟨hb, ⟨i, hcmd⟩, hp, rfl⟩ | ⟨hb, hnd, i, hcmd, hm⟩
  · exact h
  · exact finish_invariant _ hd (hc.quiet_of_invalid hcmd)
  · exact decoded_invariant h (hc.running hb hcmd) hp
  · exact hm.invariant h (hc.running hb hcmd) hnd

/-! ### The Continuation unit -/

theorem perFrame_commandOk (h : CommandOk s) (hl : s.lock = .free) : CommandOk (perFrame s) := by
  unfold perFrame
  split_ifs with htr hdone
  · exact h
  · obtain ⟨-, hprep, hul, hboot⟩ := h.sequencers
    exact { h with sequencers := ⟨fun e => by simp at e, fun e => by simp at e, hul, hboot⟩ }
  · have hlock := h.lock
    rw [hl] at hlock
    exact { h with lock := by simpa using hlock }

theorem continuationStep_invariant (h : Invariant s) (hs : continuationStep s = .next t) : Invariant t := by
  obtain ⟨hd, hc⟩ := (invariant_iff s).1 h
  have keepsPort {p : FramePos} (hcont : s.cont = .frame p) : { s with lock := .continuation } = s := by
    rw [← hd.contLock.2 (by simp [hcont])]
  rcases continuationStep_next hs with
    rfl | ⟨-, -, hl, rfl⟩ | ⟨p, q, u, hcont, -, hu, rfl⟩ | ⟨p, u, hcont, -, hu, rfl⟩
  · exact h
  · exact (invariant_iff _).2 ⟨perFrame_dataOk { hd with }, perFrame_commandOk { hc with } hl⟩
  · rw [keepsPort hcont] at hu
    have hdu := frameAccess_dataOk hu hd
    obtain ⟨hpos, -⟩ := frameAccess_position hu hd.frame_le_bufCap
    obtain ⟨w, m, x, l, es, rfl⟩ := frameAccess_frame hu
    exact (invariant_iff _).2
      ⟨{ hdu with contLock := by simpa [hcont] using hd.contLock, contPos := hpos }, { hc with }⟩
  · rw [keepsPort hcont] at hu
    have hdu := frameAccess_dataOk hu hd
    have hlock := hc.lock
    rw [hd.contLock.2 (by simp [hcont])] at hlock
    obtain ⟨w, m, x, l, es, rfl⟩ := frameAccess_frame hu
    exact (invariant_iff _).2
      ⟨{ hdu with contLock := by simp, contPos := rfl }, { hc with lock := by simpa using hlock }⟩

/-! ### The Notification unit and the agents outside -/

theorem dispatchCode_invariant (v : Code) (h : Invariant s) : Invariant (dispatchCode v s) := by
  rcases dispatchCode_cases v s with ⟨-, e⟩ | e | ⟨-, e⟩ | e <;> rw [e] <;> exact h

theorem notificationStep_invariant (h : Invariant s) : Invariant (notificationStep s) := by
  rcases notificationStep_cases s with e | ⟨-, -, e⟩ <;> rw [e]
  · exact h
  · exact dispatchCode_invariant s.mbxIn (s := raiseIrq irqNotifyRx (takeIn s).2) h

theorem peerNotify_eq (c : Code) (s : State) :
    peerNotify c s = { s with mbxIn := c, pend := true, history := (peerNotify c s).history } := by
  cases h : s.pend <;> simp [peerNotify, record, h]

theorem peerNotify_invariant (c : Code) (h : Invariant s) : Invariant (peerNotify c s) := by
  rw [peerNotify_eq]
  exact h

theorem peerLoad_next {off width : Nat} (hs : peerLoad off width s = .next t) : ∃ e, t = record e s := by
  unfold peerLoad at hs
  split at hs <;> cases hs
  exact ⟨_, rfl⟩

theorem peerStore_next {off : Nat} {bytes : List Byte} (hs : peerStore off bytes s = .next t) :
    off + bytes.length ≤ s.cfg.shmSize ∧
      ∃ e, t = record e { s with window := Memory.writeBytes s.window off bytes } := by
  unfold peerStore at hs
  split at hs <;> cases hs
  next hin => exact ⟨hin, _, rfl⟩

theorem hostStore_next {addr : Nat} {bytes : List Byte} (hs : hostStore addr bytes s = .next t) :
    addr + bytes.length ≤ 2 ^ s.cfg.hostAddrW ∧
      ∃ es, t = { s with hostMem := Memory.writeBytes s.hostMem addr bytes, history := es } := by
  unfold hostStore at hs
  split at hs <;> cases hs
  next hin => exact ⟨hin, _, rfl⟩

theorem peerStore_invariant {off : Nat} {bytes : List Byte} (h : Invariant s) (hs : peerStore off bytes s = .next t) :
    Invariant t := by
  obtain ⟨hd, hc⟩ := (invariant_iff s).1 h
  obtain ⟨hin, e, rfl⟩ := peerStore_next hs
  obtain ⟨hw, hh, hiw, hih⟩ := hd.memories
  exact (invariant_iff _).2
    ⟨{ hd with memories := ⟨Memory.wf_writeBytes _ _ hw, hh, Memory.within_writeBytes _ _ hin hiw, hih⟩ }, { hc with }⟩

theorem hostStore_invariant {addr : Nat} {bytes : List Byte} (h : Invariant s)
    (hs : hostStore addr bytes s = .next t) : Invariant t := by
  obtain ⟨hd, hc⟩ := (invariant_iff s).1 h
  obtain ⟨hin, es, rfl⟩ := hostStore_next hs
  obtain ⟨hw, hh, hiw, hih⟩ := hd.memories
  exact (invariant_iff _).2
    ⟨{ hd with memories := ⟨hw, Memory.wf_writeBytes _ _ hh, hiw, Memory.within_writeBytes _ _ hin hih⟩ }, { hc with }⟩

/-! ### The host's register window -/

/-- 30_encoding.md R75: acceptance by an idle Command unit. -/
theorem accept_invariant (w : Word) (h : Invariant s) (hb : s.busy = false) : Invariant (accept w s) := by
  obtain ⟨hd, hc⟩ := (invariant_iff s).1 h
  have hp := hc.idle_of_not_busy hb
  have hq := hc.quiet_of_phase (.inl hp)
  have hlock := hc.lock
  rw [hp] at hlock
  exact (invariant_iff _).2 ⟨{ hd with }, {
    busy := ⟨by simp, by simp⟩
    lock := hlock
    phase := rfl
    poll := fun e => by simp at e
    line := fun e => by simp [uploadPhase] at e
    sequencers := Quiet.sequencersOk { hq with }
    position := rfl }⟩

/-- 10_state.md R23, R26: a CMD or CTRL write, dropped while busy. -/
theorem unlessBusy_invariant (h : Invariant s) (hidle : s.busy = false → Invariant u) : Invariant (unlessBusy s u) := by
  unfold unlessBusy
  split
  · exact h
  · next hb => exact hidle (Bool.not_eq_true _ ▸ hb)

theorem writeReg_invariant (v : Word) (h : Invariant s) (r : Reg) : Invariant (writeReg v s r) := by
  cases r
  case cmd => exact unlessBusy_invariant h (accept_invariant v h)
  case ctrl =>
    refine unlessBusy_invariant h fun hb => ?_
    obtain ⟨hd, hc⟩ := (invariant_iff s).1 h
    refine (invariant_iff _).2 ⟨{ hd with }, { hc with line := fun e => ?_ }⟩
    simp [hc.idle_of_not_busy hb, uploadPhase] at e
  all_goals exact h

theorem hostWrite_invariant (off width : Nat) (v : Word) (h : Invariant s) : Invariant (hostWrite off width v s) := by
  unfold hostWrite
  split
  · split
    · exact writeReg_invariant v h _
    · exact h
  · exact h

/-! ### Reset -/

/-- 70_reset_and_hazards.md R138: the machine right after reset meets the invariant. -/
theorem powerOn_invariant (c : Config) (w m : Memory) (a : List Turn) (hw : Memory.wf w = true)
    (hm : Memory.wf m = true) (hiw : Memory.within c.shmSize w = true)
    (him : Memory.within (2 ^ c.hostAddrW) m = true) : Invariant (State.powerOn c w m a) := by
  refine (invariant_iff _).2 ⟨{
    memories := ⟨hw, hm, hiw, him⟩
    progress := rfl
    frame := ⟨Nat.le_refl _, Nat.zero_le _, Nat.zero_le _, nofun⟩
    tag := ⟨nofun, fun _ => rfl⟩
    map := ⟨?_, nofun⟩
    latch := rfl
    contLock := ⟨nofun, fun e => absurd rfl e⟩
    contPos := rfl }, {
    busy := ⟨⟨nofun, fun e => absurd rfl e⟩, rfl⟩
    lock := ⟨nofun, nofun⟩
    phase := rfl
    poll := fun e => by simp [State.powerOn] at e
    line := nofun
    sequencers := Quiet.sequencersOk ⟨nofun, nofun, nofun, nofun⟩
    position := rfl }⟩
  simp [State.powerOn, namedMap, bootMap, mapBase]

/-! ### Every step -/

/-- The turn of any agent keeps the invariant. -/
theorem turnStep_invariant (a : Turn) (h : Invariant s) (hs : turnStep a s = .next t) : Invariant t := by
  cases a with
  | hostRead off width => cases hs; exact h
  | hostWrite off width v => cases hs; exact hostWrite_invariant off width v h
  | hostStore addr bytes => exact hostStore_invariant h hs
  | peerNotify c => cases hs; exact peerNotify_invariant c h
  | peerReadOut => cases hs; exact h
  | peerLoad off width =>
    obtain ⟨e, rfl⟩ := peerLoad_next hs
    exact h
  | peerStore off bytes => exact peerStore_invariant h hs
  | command => exact commandStep_invariant h hs
  | continuation => exact continuationStep_invariant h hs
  | notification => cases hs; exact notificationStep_invariant h
  | reset =>
    cases hs
    obtain ⟨⟨hw, hm, hiw, him⟩, -⟩ := h
    exact powerOn_invariant _ _ _ _ hw hm hiw him

/-- Settles O16: a step is one agent's turn, taken off the schedule, which the invariant does not speak of. -/
theorem stepKeepsTheInvariant : Obligations.StepKeepsTheInvariant := by
  intro s t h hs
  rw [step_nextTurn] at hs
  exact turnStep_invariant (s := { s with agenda := s.agenda.tail }) (nextTurn s) h hs

end Sys2Proof.Machine

/-! PROOFS. What follows from the invariant for the runs (10_state.md R35), and who writes the map, the progress counters
and the latches (10_state.md R31, R33, R40). -/

namespace Sys2Proof.Machine

variable {s t u : State} {i : Instr}

/-! ### Runs keep the invariant -/

theorem runSteps_invariant {n : Nat} (h : Invariant s) (hs : runSteps n s = .next t) : Invariant t := by
  induction n generalizing s with
  | zero =>
    cases hs
    exact h
  | succ n ih =>
    simp only [runSteps] at hs
    split at hs
    · next u hu => exact ih (stepKeepsTheInvariant s u h hu) hs
    · cases hs
    · cases hs

/-- 10_state.md R35 as 32-bit values. -/
theorem Invariant.progress_words (h : Invariant s) : s.prog.remain + s.prog.sent = s.prog.total := by
  obtain ⟨-, hprog, -⟩ := h
  apply BitVec.eq_of_toNat_eq
  rw [BitVec.toNat_add, hprog, Nat.mod_eq_of_lt s.prog.total.isLt]

/-- Settles O19: the counters add up in every state of the invariant, which reset meets and steps keep. -/
theorem progressAlwaysAddsUp : Obligations.ProgressAlwaysAddsUp := by
  constructor
  · intro c w m a n t hw hm hiw him hs
    exact (runSteps_invariant (powerOn_invariant c w m a hw hm hiw him) hs).progress_words
  · intro s t h hs
    exact (stepKeepsTheInvariant s t h hs).progress_words

/-! ### The registers R31, R33 and R40 give writers for -/

/-- The current map, the progress counters and the latches of a state. -/
def State.governed (s : State) : (FrameMap × Direction × MapSel) × Progress × Bool × Bool × Bool :=
  ((s.map, s.mapDir, s.mapSel), s.prog, s.copyStarted, s.bootComplete, s.copyComplete)

/-- The governed registers one by one. -/
theorem governed_eq_iff :
    t.governed = s.governed ↔
      (t.map = s.map ∧ t.mapDir = s.mapDir ∧ t.mapSel = s.mapSel) ∧ t.prog = s.prog ∧
        t.copyStarted = s.copyStarted ∧ t.bootComplete = s.bootComplete ∧ t.copyComplete = s.copyComplete := by
  simp only [State.governed, Prod.mk.injEq]

theorem AccessFrame.governed (h : AccessFrame s u) : u.governed = s.governed := by
  obtain ⟨w, m, x, l, es, rfl⟩ := h
  rfl

/-- Which of the governed registers the Command unit's step in a command's phase may write. -/
structure CommandWrites (i : Instr) (s t : State) : Prop where
  map : (t.map = s.map ∧ t.mapDir = s.mapDir ∧ t.mapSel = s.mapSel) ∨ i = .mapDl ∨ ∃ d, i = .mapBoot d
  prog : t.prog = s.prog ∨ RunsFirst i s.phase ∧ (i = .loadBin ∨ i = .loadNv ∨ i = .prepare)
  copyStarted : t.copyStarted = s.copyStarted ∨ t.copyStarted = false ∧ s.phase = .wait ∧ i = .prepare
  bootComplete : t.bootComplete = s.bootComplete ∨ t.bootComplete = false ∧ s.phase = .wait ∧ i = .bootStart
  copyComplete : t.copyComplete = s.copyComplete ∨ s.phase = .wait ∧ (i = .loadBin ∨ i = .loadNv)

theorem CommandWrites.of_governed_eq (h : t.governed = s.governed) : CommandWrites i s t := by
  obtain ⟨hmap, hprog, hcs, hbc, hcc⟩ := governed_eq_iff.1 h
  exact ⟨.inl hmap, .inl hprog, .inl hcs, .inl hbc, .inl hcc⟩

theorem LoadKind.instr_cases (k : LoadKind) : k.instr = .loadBin ∨ k.instr = .loadNv := by
  cases k
  · exact .inl rfl
  · exact .inr rfl

theorem uploadAck_governed (tag : Word) (s : State) : (uploadAck tag s).governed = s.governed := by
  unfold uploadAck
  split <;> exact (send_frame s.cfg.codeUlFrameAck s).governed

/-- R31, R33, R40: a move of a command writes a governed register only where the rules say. -/
theorem CommandMove.writes (hm : CommandMove s i t) : CommandWrites i s t := by
  have same {i : Instr} {t : State} (h : t.governed = s.governed) : CommandWrites i s t := .of_governed_eq h
  cases hm
  case mapBoot d => exact { same (t := s) rfl with map := .inr (.inr ⟨d, rfl⟩) }
  case mapDl => exact { same (t := s) rfl with map := .inr (.inl rfl) }
  case prepareStart hp => exact { same (t := s) rfl with prog := .inr ⟨hp, .inr (.inr rfl)⟩ }
  case loadSetup k hp _ => exact { same (t := s) rfl with prog := .inr ⟨hp, k.instr_cases.imp_right .inl⟩ }
  case prepareReady hp => exact { same (t := s) rfl with copyStarted := .inr ⟨rfl, hp, rfl⟩ }
  case bootReady hp => exact { same (t := s) rfl with bootComplete := .inr ⟨rfl, hp, rfl⟩ }
  case loadDone k hp _ =>
    unfold sizeCheck
    split <;> exact { same (t := s) rfl with copyComplete := .inr ⟨hp, k.instr_cases⟩ }
  case setMagic hu | xmitSize hu => exact same (memWrite4_frame hu).governed
  case xmitPut hu => exact same (memWrite1_frame hu).governed
  case loadAccess hu | loadSent hu => exact same (frameAccess_frame hu).governed
  case xmitRead hu => exact same (hostRead1_frame hu).governed
  case uploadSize hu | uploadTag hu | uploadRefused hu | uploadFields hu => exact same (memRead4_frame hu).governed
  case uploadRead hu | crashRead hu => exact same (memRead1_frame hu).governed
  case uploadPut hu | crashPut hu | crashLast hu => exact same (hostWrite1_frame hu).governed
  case uploadAck => exact same (uploadAck_governed _ _)
  case xmitSend => exact same (send_frame s.cfg.codeXmitSent _).governed
  case ulStep1Success => exact same (send_frame s.cfg.codeUlBegin _).governed
  case bootStart => exact same (send_frame s.cfg.codeStartExec _).governed
  case cpStart => exact same (send_frame (s.cfg.codeInitEnd ||| s.cfg.initCaps) _).governed
  all_goals exact same rfl

/-! ### The turns -/

/-- A Command-unit step writes a governed register only as a move of the accepted command. -/
theorem commandStep_writes (hs : commandStep s = .next t) :
    t.governed = s.governed ∨
      (s.busy = true ∧ s.phase ≠ .decode ∧ ∃ i, currentCommand s = some i ∧ CommandWrites i s t) := by
  rcases commandStep_next hs with ⟨-, rfl⟩ | ⟨-, -, rfl⟩ | ⟨-, -, -, rfl⟩ | ⟨hb, hnd, i, hcmd, hm⟩
  · exact .inl rfl
  · exact .inl rfl
  · exact .inl rfl
  · exact .inr ⟨hb, hnd, i, hcmd, hm.writes⟩

/-- 41_download.md R96: a Continuation-unit step writes none but the counters, and those where it takes a frame-ack. -/
theorem continuationStep_writes (hs : continuationStep s = .next t) :
    t.governed = s.governed ∨
      ({ t with prog := s.prog }.governed = s.governed ∧ s.cont = .idle ∧ s.lock = .free ∧ s.contPending = true ∧
        s.dlState = .transferring ∧ t.contPending = false) := by
  rcases continuationStep_next hs with rfl | ⟨hcont, hpend, hl, rfl⟩ | ⟨p, q, u, -, -, hu, rfl⟩ | ⟨p, u, -, -, hu, rfl⟩
  · exact .inl rfl
  · unfold perFrame
    split_ifs with htr hdone
    · exact .inl rfl
    · exact .inr ⟨rfl, hcont, hl, hpend, not_not.1 htr, rfl⟩
    · exact .inr ⟨rfl, hcont, hl, hpend, not_not.1 htr, rfl⟩
  · exact .inl (frameAccess_frame hu).governed
  · exact .inl (frameAccess_frame hu).governed

/-- 43_notification.md R111: a dispatch writes none but the two latches of their codes. -/
theorem dispatchCode_writes (v : Code) (s : State) :
    (dispatchCode v s).pend = s.pend ∧
      ((dispatchCode v s).governed = s.governed ∨
        (v = s.cfg.codeDlReady ∧ (dispatchCode v s).governed = { s with copyStarted := true }.governed) ∨
        (v = s.cfg.codeBooting ∧ (dispatchCode v s).governed = { s with bootComplete := true }.governed)) := by
  rcases dispatchCode_cases v s with ⟨hv, e⟩ | e | ⟨hv, e⟩ | e <;> rw [e]
  · exact ⟨rfl, .inr (.inl ⟨hv, rfl⟩)⟩
  · exact ⟨rfl, .inl rfl⟩
  · exact ⟨rfl, .inr (.inr ⟨hv, rfl⟩)⟩
  · exact ⟨rfl, .inl rfl⟩

/-- 43_notification.md R110, R111: so a Notification-unit step writes them only as it takes those codes. -/
theorem notificationStep_writes (s : State) :
    (notificationStep s).governed = s.governed ∨
      (s.notifyEn = true ∧ s.pend = true ∧ (notificationStep s).pend = false ∧
        ((s.mbxIn = s.cfg.codeDlReady ∧ (notificationStep s).governed = { s with copyStarted := true }.governed) ∨
          (s.mbxIn = s.cfg.codeBooting ∧ (notificationStep s).governed = { s with bootComplete := true }.governed))) := by
  rcases notificationStep_cases s with e | ⟨hen, hpend, e⟩ <;> rw [e]
  · exact .inl rfl
  · obtain ⟨hp, hg⟩ := dispatchCode_writes s.mbxIn (raiseIrq irqNotifyRx (takeIn s).2)
    exact hg.imp id fun hg => ⟨hen, hpend, hp, hg⟩

theorem writeReg_governed (v : Word) (s : State) (r : Reg) : (writeReg v s r).governed = s.governed := by
  cases r
  case cmd | ctrl =>
    simp only [writeReg, unlessBusy]
    split <;> rfl
  all_goals rfl

theorem hostWrite_governed (off width : Nat) (v : Word) (s : State) : (hostWrite off width v s).governed = s.governed := by
  unfold hostWrite
  split
  · split
    · exact writeReg_governed v s _
    · rfl
  · rfl

/-- The agents outside write none of the governed registers. -/
theorem turnStep_governed {a : Turn} (ha : a ∉ [.command, .continuation, .notification, .reset])
    (hs : turnStep a s = .next t) : t.governed = s.governed := by
  simp only [List.mem_cons, List.not_mem_nil, or_false, not_or] at ha
  obtain ⟨hcmd, hcont, hnot, hres⟩ := ha
  cases a with
  | hostRead off width => cases hs; rfl
  | hostWrite off width v => cases hs; exact hostWrite_governed off width v s
  | hostStore addr bytes =>
    obtain ⟨-, es, rfl⟩ := hostStore_next hs
    rfl
  | peerNotify c =>
    cases hs
    rw [peerNotify_eq]
    rfl
  | peerReadOut => cases hs; rfl
  | peerLoad off width =>
    obtain ⟨e, rfl⟩ := peerLoad_next hs
    rfl
  | peerStore off bytes =>
    obtain ⟨-, e, rfl⟩ := peerStore_next hs
    rfl
  | command => exact absurd rfl hcmd
  | continuation => exact absurd rfl hcont
  | notification => exact absurd rfl hnot
  | reset => exact absurd rfl hres

/-- Which step may write a governed register, over the agents. -/
theorem step_writes (hs : step s = .next t) :
    t.governed = s.governed ∨ nextTurn s = .reset ∨
      (nextTurn s = .command ∧ s.busy = true ∧ s.phase ≠ .decode ∧
        ∃ i, currentCommand s = some i ∧ CommandWrites i s t) ∨
      (nextTurn s = .continuation ∧ { t with prog := s.prog }.governed = s.governed ∧ s.cont = .idle ∧ s.lock = .free ∧
        s.contPending = true ∧ s.dlState = .transferring ∧ t.contPending = false) ∨
      (nextTurn s = .notification ∧ s.notifyEn = true ∧ s.pend = true ∧ t.pend = false ∧
        ((s.mbxIn = s.cfg.codeDlReady ∧ t.governed = { s with copyStarted := true }.governed) ∨
          (s.mbxIn = s.cfg.codeBooting ∧ t.governed = { s with bootComplete := true }.governed))) := by
  rw [step_nextTurn] at hs
  generalize nextTurn s = a at hs ⊢
  by_cases ha : a ∈ [Turn.command, .continuation, .notification, .reset]
  · simp only [List.mem_cons, List.not_mem_nil, or_false] at ha
    rcases ha with rfl | rfl | rfl | rfl
    · rcases commandStep_writes hs with h | ⟨hb, hnd, i, hcmd, hw⟩
      · exact .inl h
      · exact .inr (.inr (.inl ⟨rfl, hb, hnd, i, hcmd, { hw with }⟩))
    · exact (continuationStep_writes hs).imp id fun h => .inr (.inr (.inl ⟨rfl, h⟩))
    · cases hs
      exact (notificationStep_writes _).imp id fun h => .inr (.inr (.inr ⟨rfl, h⟩))
    · exact .inr (.inl rfl)
  · exact .inl (turnStep_governed ha hs :)

theorem head?_of_nextTurn_reset (h : nextTurn s = .reset) : s.agenda.head? = some .reset := by
  unfold nextTurn at h
  split at h
  · next a rest ha => rw [ha, List.head?_cons, h]
  · split at h
    · cases h
    · split at h <;> cases h

/-- Settles O20: of the steps that may write a governed register, a MAP command's and reset write the map. -/
theorem onlyMapCommandsChangeTheMap : Obligations.OnlyMapCommandsChangeTheMap := by
  intro s t hs
  rcases step_writes hs with
    h | h | ⟨-, hb, -, i, hcmd, hw⟩ | ⟨-, h, -⟩ | ⟨-, -, -, -, ⟨-, h⟩ | ⟨-, h⟩⟩
  · exact .inl (governed_eq_iff.1 h).1
  · exact .inr (.inl (head?_of_nextTurn_reset h))
  · rcases hw.map with h | rfl | ⟨d, rfl⟩
    · exact .inl h
    · exact .inr (.inr ⟨hb, .inl hcmd⟩)
    · exact .inr (.inr ⟨hb, .inr ⟨d, hcmd⟩⟩)
  · exact .inl (governed_eq_iff.1 h).1
  · exact .inl (governed_eq_iff.1 h).1
  · exact .inl (governed_eq_iff.1 h).1

/-- Settles O21: PREPARE's and LOAD's first phase, where the invariant leaves no phase but `start`, and the per-frame
step. -/
theorem progressWriters : Obligations.ProgressWriters := by
  intro s t h hs
  obtain ⟨-, hc⟩ := (invariant_iff s).1 h
  rcases step_writes hs with
    h | h | ⟨hturn, hb, hnd, i, hcmd, hw⟩ | ⟨hturn, -, hcont⟩ | ⟨-, -, -, -, ⟨-, h⟩ | ⟨-, h⟩⟩
  · exact .inl (governed_eq_iff.1 h).2.1
  · exact .inr (.inl h)
  · rcases hw.prog with h | ⟨hfirst, hi⟩
    · exact .inl h
    · have hp := hfirst.start hc (hc.running hb hcmd) hnd
      refine .inr (.inr (.inl ⟨hturn, hb, hp, ?_⟩))
      rcases hi with rfl | rfl | rfl
      · exact .inl hcmd
      · exact .inr (.inl hcmd)
      · exact .inr (.inr hcmd)
  · exact .inr (.inr (.inr ⟨hturn, hcont⟩))
  · exact .inl (governed_eq_iff.1 h).2.1
  · exact .inl (governed_eq_iff.1 h).2.1

/-- A turn of the host leaves the three latches (10_state.md R40). -/
theorem host_leaves_latches (hs : step s = .next t) (ha : (nextTurn s).ofHost = true) :
    t.copyStarted = s.copyStarted ∧ t.bootComplete = s.bootComplete ∧ t.copyComplete = s.copyComplete := by
  have hout : nextTurn s ∉ [.command, .continuation, .notification, .reset] := by
    intro hm
    simp only [List.mem_cons, List.not_mem_nil, or_false] at hm
    rcases hm with e | e | e | e <;> rw [e] at ha <;> cases ha
  rw [step_nextTurn] at hs
  exact (governed_eq_iff.1 (turnStep_governed hout hs)).2.2

/-- Settles O22: the Notification unit sets two of the latches, a command's wait clears them, and the third is a LOAD's. -/
theorem latchWriters : Obligations.LatchWriters := by
  intro s t hs hres
  have hhost := host_leaves_latches hs
  rcases step_writes hs with
    h | h | ⟨hturn, hb, -, i, hcmd, hw⟩ | ⟨-, h, -⟩ | ⟨hturn, hen, hpend, htaken, ⟨hv, h⟩ | ⟨hv, h⟩⟩
  · obtain ⟨-, -, hcs, hbc, hcc⟩ := governed_eq_iff.1 h
    exact ⟨.inl hcs, .inl hbc, .inl hcc, hhost⟩
  · exact absurd h hres
  · refine ⟨hw.copyStarted.imp id ?_, hw.bootComplete.imp id ?_, hw.copyComplete.imp id ?_, hhost⟩
    · rintro ⟨hval, hp, rfl⟩
      exact .inr ⟨hturn, hval, hb, hp, hcmd⟩
    · rintro ⟨hval, hp, rfl⟩
      exact .inr ⟨hturn, hval, hb, hp, hcmd⟩
    · rintro ⟨hp, rfl | rfl⟩
      · exact ⟨hturn, hb, hp, .inl hcmd⟩
      · exact ⟨hturn, hb, hp, .inr hcmd⟩
  · obtain ⟨-, -, hcs, hbc, hcc⟩ := governed_eq_iff.1 h
    exact ⟨.inl hcs, .inl hbc, .inl hcc, hhost⟩
  · obtain ⟨-, -, hcs, hbc, hcc⟩ := governed_eq_iff.1 h
    exact ⟨.inr (.inl ⟨hturn, hcs, htaken, hen, hpend, hv⟩), .inl hbc, .inl hcc, hhost⟩
  · obtain ⟨-, -, hcs, hbc, hcc⟩ := governed_eq_iff.1 h
    exact ⟨.inl hcs, .inr (.inl ⟨hturn, hbc, htaken, hen, hpend, hv⟩), .inl hcc, hhost⟩

end Sys2Proof.Machine

/-! PROOFS. The host's register window (10_state.md R21 to R29), and the words that are views of several fields. -/

namespace Sys2Proof

/-! ### The register map -/

/-- 10_state.md R22: the offset of a register, four bytes for each in the order of the table. -/
def Reg.offset : Reg → Nat
  | .cmd => 0x00 | .status => 0x04 | .result => 0x08 | .ctrl => 0x0C | .irqStatus => 0x10 | .irqEnable => 0x14
  | .xferSrc => 0x18 | .xferTotal => 0x1C | .xferFrameCap => 0x20 | .xferCount => 0x24 | .ulDst => 0x28
  | .ulDstLen => 0x2C | .crashDst => 0x30
  | .mapBuf => 0x34 | .mapSize => 0x38 | .mapTag => 0x3C | .mapCount => 0x40 | .mapInfo => 0x44
  | .progTotal => 0x48 | .progRemain => 0x4C | .progSent => 0x50
  | .curSrc => 0x54 | .curFrame => 0x58 | .curTag => 0x5C | .curCount => 0x60
  | .ulLastSize => 0x64 | .ulLastTag => 0x68 | .ulLastCount => 0x6C
  | .mbxInView => 0x70 | .mbxOutView => 0x74 | .lastUnrecog => 0x78 | .pollLeft => 0x7C | .caps => 0x80

@[simp] theorem regAt_offset (r : Reg) : regAt r.offset = some r := by
  cases r <;> rfl

theorem offset_of_regAt {off : Nat} {r : Reg} (h : regAt off = some r) : off = r.offset := by
  unfold regAt at h
  split at h <;> cases h <;> rfl

theorem Reg.offset_injective : Function.Injective Reg.offset := fun r q h => by
  simpa using congrArg regAt h

theorem Reg.offset_aligned (r : Reg) : r.offset % 4 = 0 := by
  cases r <;> rfl

theorem Reg.offset_le (r : Reg) : r.offset ≤ 0x80 := by
  cases r <;> decide

/-- 10_state.md R21, R22: no register is at a misaligned offset or past the table. -/
theorem regAt_eq_none {off : Nat} (h : off % 4 ≠ 0 ∨ 0x84 ≤ off) : regAt off = none := by
  rw [Option.eq_none_iff_forall_ne_some]
  intro r hr
  have he := offset_of_regAt hr
  have ha := r.offset_aligned
  have hl := r.offset_le
  omega

namespace Machine

variable {s : State}

/-! ### Host turns -/

theorem step_hostRead {off width : Nat} {rest : List Turn} (h : s.agenda = .hostRead off width :: rest) :
    step s = .next { s with agenda := rest, hostRdata := hostReadValue off width s } := by
  rw [step_turn h]
  rfl

theorem step_hostWrite {off width : Nat} {v : Word} {rest : List Turn} (h : s.agenda = .hostWrite off width v :: rest) :
    step s = .next (hostWrite off width v { s with agenda := rest }) := by
  rw [step_turn h]
  rfl

theorem step_hostWrite_reg {r : Reg} {v : Word} {rest : List Turn} (h : s.agenda = .hostWrite r.offset 4 v :: rest) :
    step s = .next (writeReg v { s with agenda := rest } r) := by
  rw [step_hostWrite h, hostWrite, if_pos rfl, regAt_offset]

theorem hostReadValue_reg (r : Reg) (s : State) : hostReadValue r.offset 4 s = readReg s r := by
  rw [hostReadValue, if_pos rfl, regAt_offset]

theorem hostReadValue_eq_zero {off width : Nat} (h : width ≠ 4 ∨ off % 4 ≠ 0 ∨ 0x84 ≤ off) :
    hostReadValue off width s = 0#32 := by
  unfold hostReadValue
  split
  · next hw => rw [regAt_eq_none (h.resolve_left (not_not.2 hw))]
  · rfl

/-- 10_state.md R21: the registers from 0x34 on, STATUS and RESULT are read-only. -/
theorem writeReg_readOnly {r : Reg} (v : Word) (s : State) (h : r = .status ∨ r = .result ∨ 0x34 ≤ r.offset) :
    writeReg v s r = s := by
  cases r
  case cmd | ctrl | irqStatus | irqEnable | xferSrc | xferTotal | xferFrameCap | xferCount | ulDst | ulDstLen | crashDst =>
    simp [Reg.offset] at h
  all_goals rfl

/-- Settles O25: a write that reaches no register, and one that reaches a read-only register. -/
theorem ineffectiveHostWrites : Obligations.IneffectiveHostWrites := by
  intro s off width v rest hag h
  rw [step_hostWrite hag, hostWrite]
  split
  · next hw =>
    split
    · next r hr =>
      obtain rfl := offset_of_regAt hr
      have ha := r.offset_aligned
      rw [writeReg_readOnly]
      rcases h with h | h | h | h | h
      · exact absurd hw h
      · exact absurd ha h
      · exact .inl (Reg.offset_injective h)
      · exact .inr (.inl (Reg.offset_injective h))
      · exact .inr (.inr h)
    · rfl
  · rfl

/-- Settles O26: each operand register's own case of `writeReg`. -/
theorem operandWritesLand : Obligations.OperandWritesLand := by
  intro s off v rest hag
  refine ⟨?_, ?_, ?_, ?_, ?_, ?_, ?_⟩ <;> rintro rfl
  · exact step_hostWrite_reg (r := .xferSrc) hag
  · exact step_hostWrite_reg (r := .xferTotal) hag
  · exact step_hostWrite_reg (r := .xferFrameCap) hag
  · exact step_hostWrite_reg (r := .xferCount) hag
  · exact step_hostWrite_reg (r := .ulDst) hag
  · exact step_hostWrite_reg (r := .ulDstLen) hag
  · exact step_hostWrite_reg (r := .crashDst) hag

theorem decide_lowField_eq_getLsbD (v : Word) : decide (v.extractLsb' 0 1 = 1#1) = v.getLsbD 0 := by
  rw [Bool.eq_iff_iff, decide_eq_true_eq, BitVec.eq_of_getLsbD_eq_iff]
  simp

/-- Settles O23: `unlessBusy` on its two sides. -/
theorem writesWhileBusyAreDropped : Obligations.WritesWhileBusyAreDropped := by
  intro s v off rest hag
  constructor
  · rintro (rfl | rfl) hb
    · rw [step_hostWrite_reg (r := .cmd) hag, writeReg, unlessBusy, if_pos hb]
      rfl
    · rw [step_hostWrite_reg (r := .ctrl) hag, writeReg, unlessBusy, if_pos hb]
      rfl
  · rintro rfl hb
    rw [step_hostWrite_reg (r := .ctrl) hag, writeReg, unlessBusy, if_neg (by simp [hb]), decide_lowField_eq_getLsbD]

/-- Settles O27: the two registers' cases of `writeReg`, bit by bit. -/
theorem irqRegisterWrites : Obligations.IrqRegisterWrites := by
  intro s v off rest hag
  constructor
  · rintro rfl
    refine ⟨_, step_hostWrite_reg (r := .irqStatus) hag, rfl, fun i hi => ?_⟩
    simp [writeReg, hi]
  · rintro rfl
    refine ⟨_, step_hostWrite_reg (r := .irqEnable) hag, rfl, fun i hi => ?_⟩
    simp [writeReg, hi]

theorem ctrlWord_eq (s : State) : ctrlWord s = if s.notifyEn = true then 1#32 else 0#32 := by
  unfold ctrlWord
  cases s.notifyEn <;> rfl

theorem mapInfoWord_eq (s : State) :
    mapInfoWord s =
      (if s.mapSel = .secondary then 2#32 else 0#32) + (if s.mapDir = .upload then 1#32 else 0#32) := by
  unfold mapInfoWord
  cases s.mapSel <;> cases s.mapDir <;> rfl

/-- The registers of the window, in the order of R22's table. -/
def windowRegs : List Reg :=
  [.cmd, .status, .result, .ctrl, .irqStatus, .irqEnable, .xferSrc, .xferTotal, .xferFrameCap, .xferCount, .ulDst,
    .ulDstLen, .crashDst, .mapBuf, .mapSize, .mapTag, .mapCount, .mapInfo, .progTotal, .progRemain, .progSent, .curSrc,
    .curFrame, .curTag, .curCount, .ulLastSize, .ulLastTag, .ulLastCount, .mbxInView, .mbxOutView, .lastUnrecog,
    .pollLeft, .caps]

/-- Settles O24: the statement's table is the list of the registers' offsets and values. -/
theorem hostReadsHaveNoSideEffect : Obligations.HostReadsHaveNoSideEffect := by
  intro s off width rest hag
  refine ⟨fun r hw hr => ?_, fun v hw hv => ?_, fun h => ?_⟩
  · obtain rfl := offset_of_regAt hr
    rw [step_hostRead hag, hw, hostReadValue_reg]
  · have htable : (off, v) ∈ windowRegs.map fun r => (r.offset, readReg s r) := by
      simpa [windowRegs, Reg.offset, readReg, ctrlWord_eq, mapInfoWord_eq] using hv
    obtain ⟨r, -, e⟩ := List.mem_map.1 htable
    cases e
    rw [step_hostRead hag, hw, hostReadValue_reg]
  · rw [step_hostRead hag, hostReadValue_eq_zero h]

/-! ### The words that are views of several fields -/

/-- Settles O28: a word is not zero exactly when one of its bits is 1. -/
theorem hostIrqIsTheMaskedOr : Obligations.HostIrqIsTheMaskedOr := by
  constructor
  · intro s
    rw [hostIrq, decide_eq_true_eq, ne_eq, BitVec.eq_of_getLsbD_eq_iff]
    simp
  · intro c w h a
    simp [hostIrq, State.powerOn]

/-- A field of width 1 is its bit. -/
theorem getLsbD_of_extract {n k : Nat} {w : BitVec n} {b : Bool} (h : w.extractLsb' k 1 = bit b) : w.getLsbD k = b := by
  simpa [bit] using congrArg (·.getLsbD 0) h

/-- The three fields of a word made of three. -/
theorem extract_three {a b c : Nat} (x : BitVec a) (y : BitVec b) (z : BitVec c) :
    (x ++ y ++ z).extractLsb' 0 c = z ∧ (x ++ y ++ z).extractLsb' c b = y ∧
      (x ++ y ++ z).extractLsb' (c + b) a = x := by
  simp [BitVec.extractLsb'_append_eq_of_le, BitVec.extractLsb'_append_eq_of_add_le]

/-- STATUS with its width as the sum of its fields' widths. -/
theorem status_extract (s : State) (start len : Nat) :
    (readReg s .status).extractLsb' start len =
      BitVec.extractLsb' start len
        (s.curOp ++ 0#5 ++ s.bootState.bits ++ 0#1 ++ s.ulState.bits ++ 0#1 ++ s.dlState.bits ++ 0#3 ++
          bit s.bootComplete ++ bit s.copyComplete ++ bit s.copyStarted ++ bit s.contPending ++ bit s.busy) := rfl

/-- CAPS with its width as the sum of its fields' widths. -/
theorem caps_extract (s : State) (start len : Nat) :
    (readReg s .caps).extractLsb' start len =
      BitVec.extractLsb' start len
        (0#27 ++ bit s.cfg.nvCountIncrements ++ bit s.cfg.fCrashLog ++ bit s.cfg.fIoctl ++ bit s.cfg.fXmit ++
          bit s.cfg.fDlMap) := rfl

/-- 10_state.md R24: the fields of STATUS. -/
theorem status_fields (s : State) :
    (readReg s .status).extractLsb' 0 1 = bit s.busy ∧ (readReg s .status).extractLsb' 1 1 = bit s.contPending ∧
      (readReg s .status).extractLsb' 2 1 = bit s.copyStarted ∧
      (readReg s .status).extractLsb' 3 1 = bit s.copyComplete ∧
      (readReg s .status).extractLsb' 4 1 = bit s.bootComplete ∧ (readReg s .status).extractLsb' 5 3 = 0#3 ∧
      (readReg s .status).extractLsb' 8 3 = s.dlState.bits ∧ (readReg s .status).extractLsb' 11 1 = 0#1 ∧
      (readReg s .status).extractLsb' 12 3 = s.ulState.bits ∧ (readReg s .status).extractLsb' 15 1 = 0#1 ∧
      (readReg s .status).extractLsb' 16 3 = s.bootState.bits ∧ (readReg s .status).extractLsb' 19 5 = 0#5 ∧
      (readReg s .status).extractLsb' 24 8 = s.curOp := by
  simp (disch := decide) only [status_extract, BitVec.extractLsb'_append_eq_of_le,
    BitVec.extractLsb'_append_eq_of_add_le, Nat.reduceSub, BitVec.extractLsb'_eq_self, and_self]

/-- 10_state.md R49: the fields of CAPS. -/
theorem caps_fields (s : State) :
    (readReg s .caps).extractLsb' 0 1 = bit s.cfg.fDlMap ∧ (readReg s .caps).extractLsb' 1 1 = bit s.cfg.fXmit ∧
      (readReg s .caps).extractLsb' 2 1 = bit s.cfg.fIoctl ∧ (readReg s .caps).extractLsb' 3 1 = bit s.cfg.fCrashLog ∧
      (readReg s .caps).extractLsb' 4 1 = bit s.cfg.nvCountIncrements ∧ (readReg s .caps).extractLsb' 5 27 = 0#27 := by
  simp (disch := decide) only [caps_extract, BitVec.extractLsb'_append_eq_of_le,
    BitVec.extractLsb'_append_eq_of_add_le, Nat.reduceSub, BitVec.extractLsb'_eq_self, and_self]

/-- Settles O29: the fields of STATUS, the three states by R37's to R39's encodings. -/
theorem statusFields : Obligations.StatusFields := by
  intro s
  obtain ⟨busy, cont, started, complete, boot, zeros, dl, zero11, ul, zero15, bt, zeros19, op⟩ := status_fields s
  refine ⟨getLsbD_of_extract busy, getLsbD_of_extract cont, getLsbD_of_extract started, getLsbD_of_extract complete,
    getLsbD_of_extract boot, zeros, dl.trans ?_, getLsbD_of_extract zero11, ul.trans ?_, getLsbD_of_extract zero15,
    bt.trans ?_, zeros19, op⟩
  · cases s.dlState <;> rfl
  · cases s.ulState <;> rfl
  · cases s.bootState <;> rfl

/-- Settles O30: three words of three fields each, the fields of RESULT, and those of CAPS. -/
theorem viewRegisterFields : Obligations.ViewRegisterFields := by
  intro s
  obtain ⟨code, last, zeros⟩ := extract_three 0#16 s.lastOp s.resultCode.bits
  obtain ⟨inCode, pend, inZeros⟩ := extract_three 0#15 (bit s.pend) s.mbxIn
  obtain ⟨outCode, irq, outZeros⟩ := extract_three 0#15 (bit s.peerIrq) s.mbxOut
  obtain ⟨unCode, valid, unZeros⟩ := extract_three 0#15 (bit s.lastUnrecog.valid) s.lastUnrecog.code
  obtain ⟨dlMap, xmit, ioctl, crash, nv, capsZeros⟩ := caps_fields s
  refine ⟨code.trans ?_, last, zeros, inCode, getLsbD_of_extract pend, inZeros, outCode, getLsbD_of_extract irq, outZeros,
    unCode, getLsbD_of_extract valid, unZeros, getLsbD_of_extract dlMap, getLsbD_of_extract xmit,
    getLsbD_of_extract ioctl, getLsbD_of_extract crash, getLsbD_of_extract nv, capsZeros⟩
  cases s.resultCode <;> rfl

end Machine

end Sys2Proof

/-! PROOFS. A unit the port lock holds back takes no step (10_state.md R51), and a command reads its snapshot and never
the operand registers (10_state.md R30). -/

namespace Sys2Proof.Machine

variable {s : State}

/-! ### Held units -/

theorem commandAccess_held (h : s.lock = .continuation) (k : State → Result) : commandAccess s k = .next s :=
  if_pos h

/-- 41_download.md R95, R128: the Continuation unit is not enabled while the Command unit holds the port. -/
theorem continuationEnabled_of_command (h : s.lock = .command) : continuationEnabled s = false := by
  unfold continuationEnabled
  split <;> simp [h]

/-- Settles O12: every access of a command goes through `commandAccess`, and the Continuation unit is not enabled. -/
theorem heldUnitsWait : Obligations.HeldUnitsWait := by
  constructor
  · intro s hl
    have held := commandAccess_held hl
    refine ⟨?_, ?_, ?_, ?_, ?_, ?_, ?_, ?_, ?_⟩
    · simp only [exec, execSetMagic, held]
    · simp only [exec, execCpStart, held]
    · intro hp
      simp only [exec, execBootStart, hp, held]
    · intro p hp
      simp only [exec, execLoadBin, execLoadNv, loadStep, hp, loadFrame, held, and_self]
    · intro p hp
      simp only [exec, execXmit, hp, xmitAccess, held]
    · intro hp
      simp only [exec, execUlStep1, hp, held]
    · intro p hp
      simp only [exec, execUlStep2, hp, uploadAccess, held]
    · intro i b hp
      simp only [exec, execCrashLog, hp, crashCopy, held]
    · intro i hp hi
      simp only [exec, execCrashLog, hp, crashCopy, if_pos hi, held]
  · intro s rest hag hl
    rw [step_turn hag]
    exact if_neg (by simp [continuationEnabled_of_command (s := { s with agenda := rest }) hl])

/-! ### Other operand registers -/

/-- The state with other values in the seven operand registers. -/
def State.withOpnd (o : Operands) (s : State) : State := { s with opnd := o }

@[simp] theorem withOpnd_cfg (o : Operands) (s : State) : (s.withOpnd o).cfg = s.cfg := rfl
@[simp] theorem withOpnd_phase (o : Operands) (s : State) : (s.withOpnd o).phase = s.phase := rfl
@[simp] theorem withOpnd_ops (o : Operands) (s : State) : (s.withOpnd o).ops = s.ops := rfl
@[simp] theorem withOpnd_map (o : Operands) (s : State) : (s.withOpnd o).map = s.map := rfl
@[simp] theorem withOpnd_cur (o : Operands) (s : State) : (s.withOpnd o).cur = s.cur := rfl
@[simp] theorem withOpnd_prog (o : Operands) (s : State) : (s.withOpnd o).prog = s.prog := rfl
@[simp] theorem withOpnd_ulState (o : Operands) (s : State) : (s.withOpnd o).ulState = s.ulState := rfl
@[simp] theorem withOpnd_peerIrq (o : Operands) (s : State) : (s.withOpnd o).peerIrq = s.peerIrq := rfl
@[simp] theorem withOpnd_pollLeft (o : Operands) (s : State) : (s.withOpnd o).pollLeft = s.pollLeft := rfl

/-- A computation does the same with other operand registers, and leaves them there. -/
def IgnoresOpnd (o : Operands) (k : State → Result) : Prop :=
  ∀ s, k (s.withOpnd o) = onNext (State.withOpnd o) (k s)

section IgnoresOpnd

variable {o : Operands} {α : Type}

/-- A change of the state that the operand registers have no part in. -/
theorem IgnoresOpnd.next {f : State → State} (hf : ∀ s, f (s.withOpnd o) = (f s).withOpnd o) :
    IgnoresOpnd o fun s => .next (f s) := fun s =>
  congrArg Host.Outcome.next (hf s)

/-- An access whose answer `g` changes only in the operand registers it carries, and what follows it. -/
theorem onOk_ignoresOpnd {r r' : Except Fault α} {g : α → α} {k : α → Result} (hr : r' = r.map g)
    (hk : ∀ a, k (g a) = onNext (State.withOpnd o) (k a)) : onOk r' k = onNext (State.withOpnd o) (onOk r k) := by
  subst hr
  cases r with
  | ok a => exact hk a
  | error f => rfl

theorem IgnoresOpnd.commandAccess {k : State → Result} (hk : IgnoresOpnd o k) :
    IgnoresOpnd o fun s => commandAccess s k := fun s => by
  rcases commandAccess_cases s k with ⟨hl, e⟩ | ⟨hl, e⟩ <;> dsimp only <;> rw [e]
  · exact commandAccess_held (s := s.withOpnd o) hl k
  · exact (if_neg hl).trans (hk { s with lock := .command })

theorem IgnoresOpnd.pollTick {c : State → Bool} {hit out : State → Result} (hc : ∀ s, c (s.withOpnd o) = c s)
    (hhit : IgnoresOpnd o hit) (hout : IgnoresOpnd o out) :
    IgnoresOpnd o fun s => pollTick (c s) hit out s := fun s => by
  have hp : (s.withOpnd o).pollLeft = s.pollLeft := rfl
  simp only [Machine.pollTick, hc, hp]
  split_ifs
  · exact hhit s
  · exact hout { s with pollLeft := s.pollLeft - 1#32 }
  · rfl

/-! The accesses. -/

theorem memRead1_withOpnd (a : Nat) (s : State) :
    memRead1 a (s.withOpnd o) = (memRead1 a s).map fun r => (r.1, r.2.withOpnd o) := by
  unfold memRead1
  rw [withOpnd_cfg]
  split_ifs <;> rfl

theorem memRead4_withOpnd (a : Nat) (s : State) :
    memRead4 a (s.withOpnd o) = (memRead4 a s).map fun r => (r.1, r.2.withOpnd o) := by
  unfold memRead4
  rw [withOpnd_cfg]
  split_ifs <;> rfl

theorem hostRead1_withOpnd (a : Nat) (s : State) :
    hostRead1 a (s.withOpnd o) = (hostRead1 a s).map fun r => (r.1, r.2.withOpnd o) := by
  unfold hostRead1
  rw [withOpnd_cfg]
  split_ifs <;> rfl

theorem memWrite1_withOpnd (a : Nat) (v : Byte) (s : State) :
    memWrite1 a v (s.withOpnd o) = (memWrite1 a v s).map (State.withOpnd o) := by
  unfold memWrite1
  rw [withOpnd_cfg]
  split_ifs <;> rfl

theorem memWrite4_withOpnd (a : Nat) (v : Word) (s : State) :
    memWrite4 a v (s.withOpnd o) = (memWrite4 a v s).map (State.withOpnd o) := by
  unfold memWrite4
  rw [withOpnd_cfg]
  split_ifs <;> rfl

theorem hostWrite1_withOpnd (a : Nat) (v : Byte) (s : State) :
    hostWrite1 a v (s.withOpnd o) = (hostWrite1 a v s).map (State.withOpnd o) := by
  unfold hostWrite1
  rw [withOpnd_cfg]
  split_ifs <;> rfl

theorem send_withOpnd (c : Code) (s : State) : send c (s.withOpnd o) = (send c s).withOpnd o := by
  unfold send
  rw [withOpnd_peerIrq]
  split_ifs <;> rfl

theorem sizeCheck_withOpnd (s : State) : sizeCheck (s.withOpnd o) = (sizeCheck s).withOpnd o := by
  unfold sizeCheck
  rw [withOpnd_prog]
  split_ifs <;> rfl

theorem uploadAck_withOpnd (tag : Word) (s : State) : uploadAck tag (s.withOpnd o) = (uploadAck tag s).withOpnd o := by
  unfold uploadAck
  rw [send_withOpnd, withOpnd_cfg]
  split_ifs <;> rfl

theorem frameAccess_withOpnd (p : FramePos) (s : State) :
    frameAccess p (s.withOpnd o) = (frameAccess p s).map fun r => (r.1, r.2.withOpnd o) := by
  cases p with
  | byte i =>
    simp only [frameAccess, hostRead1_withOpnd, memWrite4_withOpnd, withOpnd_cur, withOpnd_map]
    split
    · cases hostRead1 (byteAddr s.cur.src i) s <;> rfl
    · cases memWrite4 s.map.size.toNat s.cur.frame s <;> rfl
  | put i b =>
    simp only [frameAccess, memWrite1_withOpnd, withOpnd_map]
    cases memWrite1 (byteAddr s.map.buf i) b s <;> rfl
  | tag =>
    simp only [frameAccess, memWrite4_withOpnd, withOpnd_cur, withOpnd_map]
    cases memWrite4 s.map.tag.toNat s.cur.tag s <;> rfl
  | count =>
    simp only [frameAccess, memWrite4_withOpnd, withOpnd_cur, withOpnd_map]
    cases memWrite4 s.map.count.toNat s.cur.count s <;> rfl
  | send =>
    simp only [frameAccess, send_withOpnd]
    rfl

/-! The commands. -/

theorem execSetMagic_ignoresOpnd : IgnoresOpnd o execSetMagic :=
  .commandAccess fun s => onOk_ignoresOpnd (memWrite4_withOpnd _ _ s) fun _ => rfl

theorem execPrepare_ignoresOpnd : IgnoresOpnd o execPrepare := fun s => by
  unfold execPrepare
  rw [withOpnd_phase]
  split
  · refine IgnoresOpnd.pollTick (c := (·.copyStarted)) (fun _ => rfl) ?_ ?_ s <;> exact fun _ => rfl
  · rfl

theorem loadFrame_ignoresOpnd (k : LoadKind) (p : FramePos) : IgnoresOpnd o (loadFrame k p) :=
  .commandAccess fun s => onOk_ignoresOpnd (frameAccess_withOpnd p s) fun r => by
    obtain ⟨q, u⟩ := r
    cases q <;> rfl

theorem loadWait_ignoresOpnd : IgnoresOpnd o loadWait := fun s => by
  unfold loadWait
  rw [sizeCheck_withOpnd]
  refine IgnoresOpnd.pollTick (c := (·.copyComplete)) (fun _ => rfl) ?_ ?_ (sizeCheck s) <;> exact fun _ => rfl

theorem loadStart_ignoresOpnd (k : LoadKind) : IgnoresOpnd o (loadStart k) := fun s => by
  unfold loadStart
  rw [show loadCheck (s.withOpnd o) = loadCheck s from rfl]
  split <;> rfl

theorem loadStep_ignoresOpnd (k : LoadKind) : IgnoresOpnd o (loadStep k) := fun s => by
  unfold loadStep
  rw [withOpnd_phase]
  split
  · exact loadFrame_ignoresOpnd k _ s
  · exact loadWait_ignoresOpnd s
  · exact loadStart_ignoresOpnd k s

theorem xmitAccess_ignoresOpnd (p : XmitPos) : IgnoresOpnd o (xmitAccess p) :=
  .commandAccess fun s => by
    cases p with
    | byte i =>
      dsimp only
      rw [withOpnd_ops]
      split_ifs
      · exact onOk_ignoresOpnd (hostRead1_withOpnd _ s) fun _ => rfl
      · exact onOk_ignoresOpnd (memWrite4_withOpnd _ _ s) fun _ => rfl
    | put i b => exact onOk_ignoresOpnd (memWrite1_withOpnd _ _ s) fun _ => rfl
    | send =>
      simp only [send_withOpnd]
      rfl

theorem execXmit_ignoresOpnd : IgnoresOpnd o execXmit := fun s => by
  unfold execXmit
  rw [withOpnd_phase, show xmitCheck (s.withOpnd o) = xmitCheck s from rfl]
  split
  · exact xmitAccess_ignoresOpnd _ s
  · split <;> rfl

theorem ulPoll_ignoresOpnd {want : Code} {hit : Phase} {out : State → Result} (hout : IgnoresOpnd o out) :
    IgnoresOpnd o (ulPoll want hit out) :=
  .pollTick (c := (·.pend)) (fun _ => rfl) (fun s => by
    rw [show (takeIn (s.withOpnd o)).1 = (takeIn s).1 from rfl]
    split <;> rfl) hout

theorem execUlStep1_ignoresOpnd : IgnoresOpnd o execUlStep1 := fun s => by
  unfold execUlStep1
  rw [withOpnd_phase]
  split
  · refine ulPoll_ignoresOpnd ?_ s
    exact fun _ => rfl
  · rw [show (peekIn (s.withOpnd o)).1 = (peekIn s).1 from rfl, withOpnd_cfg]
    split <;> rfl
  · refine IgnoresOpnd.commandAccess (fun u => ?_) s
    simp only [send_withOpnd]
    rfl
  · rfl

theorem uploadFields_ignoresOpnd (size tag count : Word) : IgnoresOpnd o (uploadFields size tag count) := fun s => by
  unfold uploadFields
  rw [show uploadSizeBad (s.withOpnd o) size = uploadSizeBad s size from rfl]
  split <;> rfl

theorem uploadAccess_ignoresOpnd (p : UploadPos) : IgnoresOpnd o (uploadAccess p) :=
  .commandAccess fun s => by
    cases p with
    | size => exact onOk_ignoresOpnd (memRead4_withOpnd _ s) fun _ => rfl
    | tag size => exact onOk_ignoresOpnd (memRead4_withOpnd _ s) fun _ => rfl
    | count size tag =>
      exact onOk_ignoresOpnd (memRead4_withOpnd _ s) fun r => uploadFields_ignoresOpnd size tag r.1 r.2
    | byte size tag i =>
      simp only [withOpnd_map, uploadAck_withOpnd]
      split_ifs
      · exact onOk_ignoresOpnd (memRead1_withOpnd _ s) fun _ => rfl
      · rfl
    | put size tag i b => exact onOk_ignoresOpnd (hostWrite1_withOpnd _ _ s) fun _ => rfl

theorem execUlStep2_ignoresOpnd : IgnoresOpnd o execUlStep2 := fun s => by
  unfold execUlStep2
  rw [withOpnd_phase]
  split
  · refine ulPoll_ignoresOpnd ?_ s
    exact fun _ => rfl
  · exact uploadAccess_ignoresOpnd _ s
  · rw [withOpnd_ulState]
    split <;> rfl

theorem execBootStart_ignoresOpnd : IgnoresOpnd o execBootStart := fun s => by
  unfold execBootStart
  rw [withOpnd_phase]
  split
  · refine IgnoresOpnd.pollTick (c := (·.bootComplete)) (fun _ => rfl) ?_ ?_ s <;> exact fun _ => rfl
  · refine IgnoresOpnd.commandAccess (.next fun u => ?_) s
    exact congrArg (fun v => startPoll u.cfg.nBoot .wait (releaseCommand v))
      (send_withOpnd u.cfg.codeStartExec { u with bootState := .waitBooting })

theorem execCpStart_ignoresOpnd : IgnoresOpnd o execCpStart :=
  .commandAccess fun s => by
    simp only [send_withOpnd]
    rfl

theorem crashCopy_ignoresOpnd (p : CrashPos) : IgnoresOpnd o (crashCopy p) := fun s => by
  cases p with
  | byte i =>
    rw [crashCopy, crashCopy, withOpnd_cfg]
    split_ifs
    · refine IgnoresOpnd.commandAccess ?_ s
      exact fun u => onOk_ignoresOpnd (memRead1_withOpnd _ u) fun _ => rfl
    · rfl
  | put i b =>
    rw [crashCopy, crashCopy]
    refine IgnoresOpnd.commandAccess ?_ s
    refine fun u => onOk_ignoresOpnd (hostWrite1_withOpnd _ _ u) fun v => ?_
    rw [withOpnd_cfg]
    split_ifs <;> rfl

theorem execCrashLog_ignoresOpnd : IgnoresOpnd o execCrashLog := fun s => by
  unfold execCrashLog
  rw [withOpnd_phase, show crashCheck (s.withOpnd o) = crashCheck s from rfl]
  split
  · exact crashCopy_ignoresOpnd _ s
  · split <;> rfl

end IgnoresOpnd

/-- Settles O13: command by command; a command's accesses, checks and polls read no operand register. -/
theorem operandWritesDoNotDisturbACommand : Obligations.OperandWritesDoNotDisturbACommand := by
  intro i s o
  cases i with
  | mapBoot d => rfl
  | mapDl => rfl
  | setMagic => exact execSetMagic_ignoresOpnd s
  | prepare => exact execPrepare_ignoresOpnd s
  | loadBin => exact loadStep_ignoresOpnd .bin s
  | loadNv => exact loadStep_ignoresOpnd .nv s
  | xmit => exact execXmit_ignoresOpnd s
  | ulStep1 => exact execUlStep1_ignoresOpnd s
  | ulStep2 => exact execUlStep2_ignoresOpnd s
  | bootStart => exact execBootStart_ignoresOpnd s
  | cpStart => exact execCpStart_ignoresOpnd s
  | crashLog => exact execCrashLog_ignoresOpnd s

end Sys2Proof.Machine

/-! PROOFS. No step from a state of the invariant makes an access that does not exist (20_memory.md R56, R63), so no run
from reset stops at one; and a 4-byte engine write of the window, byte by byte (20_memory.md R56, R57, R59). -/

namespace Sys2Proof.Machine

variable {s t : State}

/-! ### Results that stop at no access -/

/-- A result that is a next state: no fault and no refusal. -/
def Answers (r : Result) : Prop := ∃ t, r = .next t

/-- A result that stops at most at an outside agent's fault; `SafeStep s` is that of `step s`. -/
def StopsOutside (r : Result) : Prop := Answers r ∨ ∃ f, r = .fault f ∧ f.outside = true

theorem answers_next (t : State) : Answers (.next t) := ⟨t, rfl⟩

theorem onOk_answers {α : Type} {r : Except Fault α} {a : α} {k : α → Result} (hr : r = .ok a) (hk : Answers (k a)) :
    Answers (onOk r k) := by
  rw [hr]
  exact hk

/-- 10_state.md R51: a unit that is held answers the state as it is. -/
theorem commandAccess_answers {k : State → Result} (hk : Answers (k { s with lock := .command })) :
    Answers (commandAccess s k) := by
  rcases commandAccess_cases s k with ⟨-, e⟩ | ⟨-, e⟩ <;> rw [e]
  · exact answers_next s
  · exact hk

theorem pollTick_answers {c : Bool} {hit out : State → Result} (hhit : ∀ u, Answers (hit u))
    (hout : ∀ u, Answers (out u)) : Answers (pollTick c hit out s) := by
  rcases pollTick_cases c hit out s with ⟨-, e⟩ | ⟨-, -, e⟩ | ⟨-, -, e⟩ <;> rw [e]
  · exact hhit s
  · exact hout _
  · exact answers_next _

theorem ulPoll_answers {want : Code} {hit : Phase} {out : State → Result} (hout : ∀ u, Answers (out u)) :
    Answers (ulPoll want hit out s) := by
  refine pollTick_answers (fun u => ?_) hout
  split <;> exact answers_next _

/-! ### Where the accesses of a state of the invariant go -/

/-- 00_scope.md R9: the current map's fields and buffer are inside the window. -/
theorem DataOk.map_fits (h : DataOk s) : FrameMap.Fits s.cfg.shmSize s.cfg.bufCap s.map := by
  rw [h.map.1]
  exact namedMap_fits _ _ _

/-- 41_download.md R88: "Every byte lands inside the buffer", and so inside the window. -/
theorem DataOk.buffer_lt_shmSize (h : DataOk s) {i : Nat} (hi : i < s.cfg.bufCap) :
    byteAddr s.map.buf i < s.cfg.shmSize := by
  obtain ⟨-, ⟨-, -, -, hbuf⟩, -⟩ := h.map_fits
  rw [byteAddr_eq]
  omega

/-- 41_download.md R88: FrameTransfer's next access exists, whichever unit has taken the port for it. -/
theorem DataOk.frameAccess_exists (h : DataOk s) {p : FramePos} (hp : framePosOk s.cfg.bufCap p = true)
    (l : PortLock) : ∃ q u, frameAccess p { s with lock := l } = .ok (q, u) := by
  obtain ⟨hrem, -, htop, -⟩ := h.frame
  have hsrc : s.cur.src.toNat + s.cur.frame.toNat ≤ 2 ^ s.cfg.hostAddrW := by omega
  obtain ⟨⟨q, u⟩, hr⟩ := Machine.frameAccess_exists (s := { s with lock := l }) h.map_fits hp hsrc
  exact ⟨q, u, hr⟩

theorem passesHostTop_eq_false {c : Config} {a n : Nat} : passesHostTop c a n = false ↔ a + n ≤ 2 ^ c.hostAddrW := by
  simp [passesHostTop]

/-- 42_upload.md R102: what the validation of the size field has established when it passes. -/
theorem uploadSizeBad_eq_false {size : Word} :
    uploadSizeBad s size = false ↔
      size.toNat ≤ s.cfg.bufCap ∧ size.toNat ≤ s.ops.ulLen.toNat ∧
        s.ops.ulDst.toNat + size.toNat ≤ 2 ^ s.cfg.hostAddrW := by
  simp [uploadSizeBad, passesHostTop_eq_false, and_assoc]

theorem positionOk_frame {p : FramePos} (hp : s.phase = .frame p) :
    positionOk s = true ↔ framePosOk s.cfg.bufCap p = true := by
  simp [positionOk, hp]

/-! ### The commands -/

section Commands

variable (hd : DataOk s) (hpos : positionOk s = true)

theorem execSetMagic_answers (s : State) : Answers (execSetMagic s) := by
  obtain ⟨haligned, hin⟩ := s.cfg.header
  exact commandAccess_answers (onOk_answers (memWrite4_ok.2 ⟨haligned, hin, rfl⟩) (answers_next _))

theorem execPrepare_answers (s : State) : Answers (execPrepare s) := by
  unfold execPrepare
  split
  · exact pollTick_answers (fun _ => answers_next _) (fun _ => answers_next _)
  · exact answers_next _

include hd in
theorem loadFrame_answers (k : LoadKind) {p : FramePos} (hp : framePosOk s.cfg.bufCap p = true) :
    Answers (loadFrame k p s) := by
  obtain ⟨q, u, hr⟩ := hd.frameAccess_exists hp .command
  refine commandAccess_answers (onOk_answers hr ?_)
  cases q <;> exact answers_next _

include hd hpos in
theorem loadStep_answers (k : LoadKind) : Answers (loadStep k s) := by
  unfold loadStep
  split
  · next p hp => exact loadFrame_answers hd k ((positionOk_frame hp).1 hpos)
  · exact pollTick_answers (fun _ => answers_next _) (fun _ => answers_next _)
  · unfold loadStart
    split <;> exact answers_next _

include hd hpos in
/-- 41_download.md R99: XMIT's CHECK has bounded the bytes it reads and the bytes it puts. -/
theorem xmitAccess_answers {p : XmitPos} (hp : s.phase = .xmit p) : Answers (xmitAccess p s) := by
  obtain ⟨htotal, htop, hput⟩ := (positionOk_xmit hp).1 hpos
  obtain ⟨⟨haligned, -, -⟩, ⟨hin, -⟩, -⟩ := hd.map_fits
  refine commandAccess_answers ?_
  cases p with
  | byte i =>
    dsimp only
    split
    · next hi =>
      have ha := byteAddr_lt_host (passesHostTop_eq_false.1 htop) hi
      exact onOk_answers (hostRead1_ok.2 ⟨ha, rfl⟩) (answers_next _)
    · exact onOk_answers (memWrite4_ok.2 ⟨haligned, hin, rfl⟩) (answers_next _)
  | put i b =>
    have hi : i < s.cfg.bufCap := Nat.lt_of_lt_of_le (hput i b rfl) htotal
    exact onOk_answers (memWrite1_ok.2 ⟨hd.buffer_lt_shmSize hi, rfl⟩) (answers_next _)
  | send => exact answers_next _

include hd hpos in
theorem execXmit_answers : Answers (execXmit s) := by
  unfold execXmit
  split
  · next p hp => exact xmitAccess_answers hd hpos hp
  · split <;> exact answers_next _

theorem execUlStep1_answers (s : State) : Answers (execUlStep1 s) := by
  unfold execUlStep1
  split
  · exact ulPoll_answers fun _ => answers_next _
  · split <;> exact answers_next _
  · exact commandAccess_answers (answers_next _)
  · exact answers_next _

theorem uploadFields_answers (size tag count : Word) (s : State) : Answers (uploadFields size tag count s) := by
  unfold uploadFields
  split <;> exact answers_next _

include hd hpos in
/-- 42_upload.md R102: the validated size bounds the bytes it reads from the buffer and writes to the host. -/
theorem uploadAccess_answers {p : UploadPos} (hp : s.phase = .upload p) : Answers (uploadAccess p s) := by
  obtain ⟨⟨hsize4, htag4, hcount4⟩, ⟨hsize, htag, hcount, -⟩, -⟩ := hd.map_fits
  refine commandAccess_answers ?_
  cases p with
  | size => exact onOk_answers (memRead4_ok.2 ⟨hsize4, hsize, rfl⟩) (answers_next _)
  | tag size => exact onOk_answers (memRead4_ok.2 ⟨htag4, htag, rfl⟩) (answers_next _)
  | count size tag => exact onOk_answers (memRead4_ok.2 ⟨hcount4, hcount, rfl⟩) (uploadFields_answers _ _ _ _)
  | byte size tag i =>
    obtain ⟨hcap, -⟩ := uploadSizeBad_eq_false.1 ((positionOk_uploadByte hp).1 hpos)
    dsimp only
    split
    · next hi =>
      have ha := hd.buffer_lt_shmSize (Nat.lt_of_lt_of_le hi hcap)
      exact onOk_answers (memRead1_ok.2 ⟨ha, rfl⟩) (answers_next _)
    · exact answers_next _
  | put size tag i b =>
    obtain ⟨hvalid, hi⟩ := (positionOk_uploadPut hp).1 hpos
    obtain ⟨-, -, htop⟩ := uploadSizeBad_eq_false.1 hvalid
    exact onOk_answers (hostWrite1_ok.2 ⟨byteAddr_lt_host htop hi, rfl⟩) (answers_next _)

include hd hpos in
theorem execUlStep2_answers : Answers (execUlStep2 s) := by
  unfold execUlStep2
  split
  · exact ulPoll_answers fun _ => answers_next _
  · next p hp => exact uploadAccess_answers hd hpos hp
  · split <;> exact answers_next _

theorem execBootStart_answers (s : State) : Answers (execBootStart s) := by
  unfold execBootStart
  split
  · exact pollTick_answers (fun _ => answers_next _) (fun _ => answers_next _)
  · exact commandAccess_answers (answers_next _)

theorem execCpStart_answers (s : State) : Answers (execCpStart s) := by
  unfold execCpStart
  exact commandAccess_answers (answers_next _)

include hpos in
/-- 45_diagnostic.md R116: R9 (d) has the crash buffer inside the window, and CHECK its copy inside host memory. -/
theorem crashCopy_answers {p : CrashPos} (hp : s.phase = .crash p) : Answers (crashCopy p s) := by
  obtain ⟨htop, hput⟩ := (positionOk_crash hp).1 hpos
  cases p with
  | byte i =>
    simp only [crashCopy]
    split
    · next hi =>
      have ha : byteAddr s.cfg.crashRxOff i < s.cfg.shmSize := by
        have hin := s.cfg.crash
        rw [byteAddr_eq]
        omega
      exact commandAccess_answers (onOk_answers (memRead1_ok.2 ⟨ha, rfl⟩) (answers_next _))
    · exact answers_next _
  | put i b =>
    have ha := byteAddr_lt_host (passesHostTop_eq_false.1 htop) (hput i b rfl)
    unfold crashCopy
    refine commandAccess_answers (onOk_answers (hostWrite1_ok.2 ⟨ha, rfl⟩) ?_)
    split <;> exact answers_next _

include hpos in
theorem execCrashLog_answers : Answers (execCrashLog s) := by
  unfold execCrashLog
  split
  · next p hp => exact crashCopy_answers hpos hp
  · split <;> exact answers_next _

include hd hpos in
/-- A Command-unit step of any command answers a next state, in whatever phase. -/
theorem exec_answers (i : Instr) : Answers (exec i s) := by
  cases i with
  | mapBoot d => exact answers_next _
  | mapDl => exact answers_next _
  | setMagic => exact execSetMagic_answers s
  | prepare => exact execPrepare_answers s
  | loadBin => exact loadStep_answers hd hpos .bin
  | loadNv => exact loadStep_answers hd hpos .nv
  | xmit => exact execXmit_answers hd hpos
  | ulStep1 => exact execUlStep1_answers s
  | ulStep2 => exact execUlStep2_answers hd hpos
  | bootStart => exact execBootStart_answers s
  | cpStart => exact execCpStart_answers s
  | crashLog => exact execCrashLog_answers hpos

end Commands

/-! ### The turns -/

theorem commandStep_answers (h : Invariant s) : Answers (commandStep s) := by
  obtain ⟨hd, hc⟩ := (invariant_iff s).1 h
  by_cases hb : s.busy = true
  · rcases commandStep_cases hb with ⟨-, e⟩ | ⟨i, -, ⟨-, e⟩ | ⟨-, e⟩⟩ <;> rw [e]
    · exact answers_next _
    · exact answers_next _
    · exact exec_answers hd hc.position i
  · exact ⟨s, if_neg hb⟩

/-- 41_download.md R95, R96: the frame the Continuation unit sends fits the window and host memory. -/
theorem continuationStep_answers (h : Invariant s) : Answers (continuationStep s) := by
  obtain ⟨hd, -⟩ := (invariant_iff s).1 h
  unfold continuationStep
  split
  · split
    · exact answers_next _
    · next p hcont =>
      have hp : framePosOk s.cfg.bufCap p = true := by simpa [contPosOk, hcont] using hd.contPos
      obtain ⟨q, u, hr⟩ := hd.frameAccess_exists hp .continuation
      refine onOk_answers hr ?_
      cases q <;> exact answers_next _
  · exact answers_next _

/-- An outside agent's access, made when the memory it names exists. -/
theorem outsideAccess_stopsOutside {c : Prop} [Decidable c] {f : Fault} (hf : f.outside = true) :
    StopsOutside (if c then .next t else .fault f) := by
  split
  · exact .inl (answers_next t)
  · exact .inr ⟨f, rfl, hf⟩

/-- A turn stops at no access of the engine and at no refusal: an outside agent's is the only fault there is. -/
theorem turnStep_stopsOutside (a : Turn) (h : Invariant s) : StopsOutside (turnStep a s) := by
  cases a with
  | hostRead off width => exact .inl (answers_next _)
  | hostWrite off width v => exact .inl (answers_next _)
  | hostStore addr bytes => exact outsideAccess_stopsOutside rfl
  | peerNotify c => exact .inl (answers_next _)
  | peerReadOut => exact .inl (answers_next _)
  | peerLoad off width => exact outsideAccess_stopsOutside rfl
  | peerStore off bytes => exact outsideAccess_stopsOutside rfl
  | command => exact .inl (commandStep_answers h)
  | continuation => exact .inl (continuationStep_answers h)
  | notification => exact .inl (answers_next _)
  | reset => exact .inl (answers_next _)

/-- Settles O17: the turn a step takes, in a state the invariant holds in also without its schedule. -/
theorem invariantStatesStepSafely : Obligations.InvariantStatesStepSafely := by
  intro s h
  show StopsOutside (step s)
  rw [step_nextTurn]
  exact turnStep_stopsOutside (s := { s with agenda := s.agenda.tail }) (nextTurn s) h

/-! ### Runs -/

theorem runSteps_stopsOutside (n : Nat) (h : Invariant s) : StopsOutside (runSteps n s) := by
  induction n generalizing s with
  | zero => exact .inl (answers_next s)
  | succ n ih =>
    rcases invariantStatesStepSafely s h with ⟨t, ht⟩ | ⟨f, hf, hout⟩
    · rw [runSteps_succ ht]
      exact ih (stepKeepsTheInvariant s t h ht)
    · exact .inr ⟨f, by simp only [runSteps, hf], hout⟩

/-- Settles O18: reset meets the invariant, steps keep it, and none from it stops at an access of the engine. -/
theorem noRunReachesAnEngineFault : Obligations.NoRunReachesAnEngineFault := by
  intro c w m a n hw hm hiw him
  exact runSteps_stopsOutside n (powerOn_invariant c w m a hw hm hiw him)

/-! ### A word of the window -/

theorem memWrite4_misaligned {a : Nat} (v : Word) (s : State) (h : a % 4 ≠ 0) :
    memWrite4 a v s = .error (.windowAlign a) :=
  if_pos h

theorem memWrite4_pastWindow {a : Nat} (v : Word) (h4 : a % 4 = 0) (h : s.cfg.shmSize < a + 4) :
    memWrite4 a v s = .error (.windowRange a 4) := by
  rw [memWrite4, if_neg (not_not.2 h4), if_neg (Nat.not_le.2 h)]

/-- 20_memory.md R59: a 4-byte read of a word just written gives it. -/
theorem memRead4_memWrite4 {a : Nat} {v : Word} (hw : Memory.wf s.window = true) (ht : memWrite4 a v s = .ok t) :
    memRead4 a t = .ok (v, record (.memRd .engine a 4 v.toNat) t) := by
  obtain ⟨h4, hin, rfl⟩ := memWrite4_ok.1 ht
  refine memRead4_ok.2 ⟨h4, hin, ?_⟩
  simp only [record_window, Memory.readWord_writeWord a v hw]

/-- Settles O31: the word write's four bytes, its frame and its read back; the two faults are its other branches. -/
theorem windowWordAccess : Obligations.WindowWordAccess := by
  intro s a v hw
  refine ⟨fun h4 hin => ?_, memWrite4_misaligned v s, memWrite4_pastWindow v⟩
  have ht := (memWrite4_ok (v := v) (s := s)).2 ⟨h4, hin, rfl⟩
  obtain ⟨b0, b1, b2, b3⟩ := Memory.read_writeWord_bytes a v hw
  exact ⟨_, ht, rfl, b0, b1, b2, b3, fun b hb => Memory.read_writeWord_outside _ a v hb, memRead4_memWrite4 hw ht⟩

end Sys2Proof.Machine

/-! PROOFS. A command word is its three fields, so decoding and encoding are inverse (30_encoding.md R72 to R74); a word
is accepted whatever it is (R75), and one that is no command ends INVALID at its first Command-unit step (R76). -/

namespace Sys2Proof

/-! ### A word and its fields -/

/-- R72: the three fields hold every bit of the word. -/
theorem append_fields (w : Word) : reservedField w ++ dirField w ++ opcodeField w = w := by
  unfold reservedField dirField opcodeField
  rw [BitVec.extractLsb'_append_extractLsb'_eq_extractLsb' (start₁ := 8) (start₂ := 9) rfl,
    BitVec.extractLsb'_append_extractLsb'_eq_extractLsb' (start₁ := 0) (start₂ := 8) rfl]
  exact BitVec.extractLsb'_eq_self

theorem eq_iff_fields {w v : Word} :
    w = v ↔ reservedField w = reservedField v ∧ dirField w = dirField v ∧ opcodeField w = opcodeField v := by
  constructor
  · rintro rfl
    exact ⟨rfl, rfl, rfl⟩
  · rintro ⟨hres, hdir, hop⟩
    rw [← append_fields w, ← append_fields v, hres, hdir, hop]

theorem encode_fields (i : Instr) : Laws.EncodedFields.Statement i := by
  cases i with
  | mapBoot dir => exact Laws.EncodedFields.mapBoot dir
  | mapDl => exact Laws.EncodedFields.mapDl
  | setMagic => exact Laws.EncodedFields.setMagic
  | prepare => exact Laws.EncodedFields.prepare
  | loadBin => exact Laws.EncodedFields.loadBin
  | loadNv => exact Laws.EncodedFields.loadNv
  | xmit => exact Laws.EncodedFields.xmit
  | ulStep1 => exact Laws.EncodedFields.ulStep1
  | ulStep2 => exact Laws.EncodedFields.ulStep2
  | bootStart => exact Laws.EncodedFields.bootStart
  | cpStart => exact Laws.EncodedFields.cpStart
  | crashLog => exact Laws.EncodedFields.crashLog

/-- A word is a command's encoding exactly when its fields are that command's. -/
theorem eq_encode_iff {w : Word} {i : Instr} :
    w = encode i ↔ reservedField w = 0#23 ∧ dirField w = i.dirBit ∧ opcodeField w = i.opcode := by
  obtain ⟨hop, hdir, hres, -⟩ := encode_fields i
  rw [eq_iff_fields, hop, hdir, hres]

/-! ### The opcode table, read back -/

@[simp] theorem Direction.bit_ofBit (d : BitVec 1) : (Direction.ofBit d).bit = d := by
  revert d
  decide

@[simp] theorem Direction.ofBit_bit (dir : Direction) : Direction.ofBit dir.bit = dir := by
  cases dir <;> rfl

/-- R74: the table gives a command back from its own OPCODE and DIR. -/
theorem instrOfOpcode_opcode (i : Instr) : instrOfOpcode i.opcode (Direction.ofBit i.dirBit) = some i := by
  cases i with
  | mapBoot dir => simp [instrOfOpcode, Instr.opcode, Instr.dirBit]
  | _ => rfl

/-- R72: only MAP_BOOT has a DIR, so the DIR of any other table entry is 0. -/
theorem dirBit_of_instrOfOpcode {op : BitVec 8} {d : BitVec 1} {i : Instr} (hd : d = 1#1 → op = 0x01#8)
    (h : instrOfOpcode op (Direction.ofBit d) = some i) : i.dirBit = d := by
  by_cases hop : op = 0x01#8
  · rw [hop] at h
    cases h
    exact Direction.bit_ofBit d
  · obtain ⟨-, -, -, hmap⟩ := encode_fields i
    have hi : i.dirBit ≠ 1#1 := fun hi => hop (opcode_of_instrOfOpcode h ▸ hmap hi)
    have hd0 : d ≠ 1#1 := mt hd hop
    bv_omega

/-- Where only MAP_BOOT's OPCODE has a DIR, the table's command is the one with this OPCODE and DIR. -/
theorem instrOfOpcode_eq_some_iff {op : BitVec 8} {d : BitVec 1} {i : Instr} (hd : d = 1#1 → op = 0x01#8) :
    instrOfOpcode op (Direction.ofBit d) = some i ↔ d = i.dirBit ∧ op = i.opcode := by
  constructor
  · intro h
    exact ⟨(dirBit_of_instrOfOpcode hd h).symm, (opcode_of_instrOfOpcode h).symm⟩
  · rintro ⟨rfl, rfl⟩
    exact instrOfOpcode_opcode i

theorem dirBit_clear_or_mapBoot_iff {w : Word} :
    (w.getLsbD 8 = false ∨ opcodeField w = 0x01#8) ↔ (dirField w = 1#1 → opcodeField w = 0x01#8) := by
  rw [dirField_eq_one_iff, imp_iff_not_or, Bool.not_eq_true]

/-- Settles O1: decoding asks of the fields of a word what being the command's encoding does. -/
theorem decodesExactlyItsEncoding : Obligations.DecodesExactlyItsEncoding := by
  intro w i
  rw [decode_eq_ok_iff, eq_encode_iff, dirBit_clear_or_mapBoot_iff]
  refine and_congr_right fun _ => ?_
  constructor
  · rintro ⟨hd, h⟩
    exact (instrOfOpcode_eq_some_iff hd).1 h
  · rintro ⟨hdir, hop⟩
    obtain ⟨-, -, -, hmap⟩ := encode_fields i
    have hd : dirField w = 1#1 → opcodeField w = 0x01#8 := by
      rw [hdir, hop]
      exact hmap
    exact ⟨hd, (instrOfOpcode_eq_some_iff hd).2 ⟨hdir, hop⟩⟩

/-- 30_encoding.md R73: decoding an encoded command gives it back. -/
@[simp] theorem decode_encode (i : Instr) : decode (encode i) = .ok i :=
  (decodesExactlyItsEncoding _ i).2 rfl

/-- Settles O3: each word of a command is its encoding; the others fail one condition of R76 each. -/
theorem specWordsDecode : Obligations.SpecWordsDecode :=
  ⟨decode_encode (.mapBoot .download), decode_encode (.mapBoot .upload), decode_encode .mapDl, decode_encode .setMagic,
    decode_encode .prepare, decode_encode .loadBin, decode_encode .loadNv, decode_encode .xmit, decode_encode .ulStep1,
    decode_encode .ulStep2, decode_encode .bootStart, decode_encode .cpStart, decode_encode .crashLog,
    by decide, by decide, by decide⟩

namespace Machine

/-! ### Acceptance, and the end of an invalid word -/

/-- Settles O5: the idle side of `unlessBusy` for a CMD write. -/
theorem acceptanceSamplesTheOperands : Obligations.AcceptanceSamplesTheOperands := by
  intro s w rest hag hb
  rw [step_hostWrite_reg (r := .cmd) hag, writeReg, unlessBusy, if_neg (by simp [hb])]
  rfl

theorem step_command {s : State} {rest : List Turn} (h : s.agenda = .command :: rest) :
    step s = commandStep { s with agenda := rest } :=
  step_turn h

/-- 60_exceptions.md R119: the lock is free if the Command unit held it, and else as it was. -/
theorem dropCommand_eq_ite (l : PortLock) : l.dropCommand = if l = .command then .free else l := by
  cases l <;> rfl

theorem commandStep_invalid {s : State} (hb : s.busy = true) (hc : currentCommand s = none) :
    commandStep s = .next (finish .invalid s) := by
  rcases commandStep_cases hb with ⟨-, he⟩ | ⟨i, hi, -⟩
  · exact he
  · rw [hc] at hi
    cases hi

/-- Settles O7: the Command unit's step on a word that is no command is `finish(INVALID)`. -/
theorem invalidWordCompletesInvalid : Obligations.InvalidWordCompletesInvalid := by
  intro s rest hag hb hc
  rw [step_command hag, commandStep_invalid (s := { s with agenda := rest }) hb hc, ← dropCommand_eq_ite]
  rfl

end Machine

end Sys2Proof

/-! PROOFS. The memory-map and header commands end OK in their one step: MAP_BOOT and MAP_DL with their map selected
(40_memory_map.md R84, R85), SET_MAGIC with the magic word in the window's header (R86). -/

namespace Sys2Proof.Machine

variable {s : State}

/-- 20_memory.md R62: an access that the Continuation unit does not hold off runs with the port taken. -/
theorem commandAccess_granted (h : s.lock ≠ .continuation) (k : State → Result) :
    commandAccess s k = k { s with lock := .command } := by
  rcases commandAccess_cases s k with ⟨hl, -⟩ | ⟨-, he⟩
  · exact absurd hl h
  · exact he

/-! ### The maps -/

/-- R84: the download side's base is 0, so its map is the configuration's own offsets. -/
theorem bootMap_download (c : Config) :
    bootMap c .download = { buf := c.offBuf, size := c.offSize, tag := c.offTag, count := c.offCount } := by
  simp only [bootMap, mapBase, BitVec.zero_add]

theorem exec_mapBoot (d : Direction) (s : State) :
    exec (.mapBoot d) s = .next (finish .ok (selectMap (bootMap s.cfg d) d .boot s)) :=
  rfl

/-- Settles O38: the two directions of MAP_BOOT, the download side with its base 0 dropped, and MAP_DL. -/
theorem mapCommandsSelectTheirMap : Obligations.MapCommandsSelectTheirMap := by
  intro s
  refine ⟨?download, ?upload, ?secondary⟩
  case download =>
    rw [exec_mapBoot, bootMap_download]
    rfl
  case upload => exact exec_mapBoot .upload s
  case secondary => rfl

/-! ### The header word -/

/-- The state in which SET_MAGIC's one access leaves the machine, the port given back: `finish` starts from it. -/
def magicWritten (s : State) : State :=
  { s with
    lock := .free
    window := Memory.writeWord s.window s.cfg.hdrMagicOff.toNat s.cfg.dlMagic
    history := .memWr .engine s.cfg.hdrMagicOff.toNat 4 s.cfg.dlMagic.toNat :: s.history }

/-- R86: the header word is aligned and inside the window (R9), so the write succeeds and the command ends OK with it. -/
theorem exec_setMagic (hl : s.lock ≠ .continuation) : exec .setMagic s = .next (finish .ok (magicWritten s)) := by
  obtain ⟨haligned, hin⟩ := s.cfg.header
  have hwrite := (memWrite4_ok (v := s.cfg.dlMagic) (s := { s with lock := .command })).2 ⟨haligned, hin, rfl⟩
  change execSetMagic s = _
  rw [execSetMagic, commandAccess_granted hl, hwrite]
  rfl

/-- Settles O39: the step's window is the old one with one word written: that word reads back, and no other byte changes. -/
theorem setMagicWritesTheMagic : Obligations.SetMagicWritesTheMagic := by
  intro s hl hw
  exact ⟨finish .ok (magicWritten s), exec_setMagic hl, Memory.readWord_writeWord _ _ hw,
    fun _ hb => Memory.read_writeWord_outside _ _ _ hb, rfl⟩

end Sys2Proof.Machine

/-! PROOFS. The download commands, one Command-unit or Continuation-unit step at a time: PREPARE (41_download.md R89), the
checks and the wait of a LOAD (R90 to R94), the per-frame step's updates (R95, R96) and XMIT (R99); and how many checks a
PREPARE makes that finds no ready code (00_scope.md R12). -/

namespace Sys2Proof.Machine

variable {s : State}

/-! ### A poll tick, by its three ends -/

theorem pollTick_hit {c : Bool} (hit out : State → Result) (hc : c = true) : pollTick c hit out s = hit s :=
  if_pos hc

theorem pollTick_miss {c : Bool} (hit out : State → Result) (hc : c = false) (hl : s.pollLeft ≠ 1#32) :
    pollTick c hit out s = .next { s with pollLeft := s.pollLeft - 1#32 } := by
  simpa [hc, hl] using pollTick_cases c hit out s

theorem pollTick_out {c : Bool} (hit out : State → Result) (hc : c = false) (hl : s.pollLeft = 1#32) :
    pollTick c hit out s = out { s with pollLeft := 0#32 } := by
  simpa [hc, hl] using pollTick_cases c hit out s

/-! ### PREPARE -/

/-- R89: PREPARE outside its wait is its START, which enters the wait. -/
theorem exec_prepare_start (hp : s.phase = .start) :
    exec .prepare s = .next (startPoll s.cfg.nPrepare .wait (prepareStart s)) := by
  change execPrepare s = _
  simp only [execPrepare, hp]

/-- R89: PREPARE in its wait is a poll tick on COPY_STARTED. -/
theorem exec_prepare_wait (hp : s.phase = .wait) :
    exec .prepare s =
      pollTick s.copyStarted
        (fun s => .next (finish .ok { consumeLatch .copyStarted s with dlState := .peerReady }))
        (fun s => fail .timeout { s with dlState := .timeoutFailed }) s := by
  change execPrepare s = _
  simp only [execPrepare, hp]

/-- Settles O40: the START, and the three ends of the wait's tick. -/
theorem preparePhases : Obligations.PreparePhases := by
  intro s
  refine ⟨fun hp => exec_prepare_start hp, fun hp hc => ?_, fun hp hc hl => ?_, fun hp hc hl => ?_⟩ <;>
    rw [exec_prepare_wait hp]
  · exact pollTick_hit _ _ hc
  · exact pollTick_miss _ _ hc hl
  · exact pollTick_out _ _ hc hl

/-! ### The checks and the SETUP of a LOAD -/

/-- R93, R94: both LOADs run the same step. -/
theorem exec_load (k : LoadKind) (s : State) : exec k.instr s = loadStep k s := by
  cases k <;> rfl

theorem exists_loadKind {i : Instr} (h : i = .loadBin ∨ i = .loadNv) : ∃ k : LoadKind, i = k.instr := by
  rcases h with rfl | rfl
  · exact ⟨.bin, rfl⟩
  · exact ⟨.nv, rfl⟩

theorem exec_load_start (k : LoadKind) (hp : s.phase = .start) : exec k.instr s = loadStart k s := by
  rw [exec_load]
  simp only [loadStep, hp]

theorem exec_load_refused (k : LoadKind) {code : ResultCode} (hp : s.phase = .start) (hc : loadCheck s = some code) :
    exec k.instr s = .next (finish code s) := by
  rw [exec_load_start k hp]
  simp only [loadStart, hc, fail]

theorem exec_load_setup (k : LoadKind) (hp : s.phase = .start) (hc : loadCheck s = none) :
    exec k.instr s = .next { loadSetup k s with phase := .frame (.byte 0) } := by
  rw [exec_load_start k hp]
  simp only [loadStart, hc]

/-- R90: past the DL_STATE check the four others are left, in their order. -/
theorem loadCheck_ready (h : s.dlState = .peerReady ∨ s.dlState = .complete) :
    loadCheck s =
      if s.ops.total = 0#32 then some .invalid
      else if s.ops.cap = 0#32 ∨ s.cfg.bufCap < s.ops.cap.toNat then some .invalid
      else if 2 ^ s.cfg.hostAddrW < s.ops.src.toNat + s.ops.total.toNat then some .invalid
      else if s.cfg.xferBufMax < s.ops.total.toNat then some .nomem
      else none := by
  have hst : ¬(s.dlState ≠ .peerReady ∧ s.dlState ≠ .complete) := by
    rcases h with h | h <;> simp [h]
  simp only [loadCheck, if_neg hst, passesHostTop, gt_iff_lt, decide_eq_true_eq]

/-- R90: what it takes for every check to pass. -/
theorem loadCheck_passes (hst : s.dlState = .peerReady ∨ s.dlState = .complete) (htot : s.ops.total ≠ 0#32)
    (hcap : s.ops.cap ≠ 0#32) (hbuf : s.ops.cap.toNat ≤ s.cfg.bufCap)
    (htop : s.ops.src.toNat + s.ops.total.toNat ≤ 2 ^ s.cfg.hostAddrW)
    (hmax : s.ops.total.toNat ≤ s.cfg.xferBufMax) : loadCheck s = none := by
  simp [loadCheck_ready hst, htot, hcap, Nat.not_lt.2 hbuf, Nat.not_lt.2 htop, Nat.not_lt.2 hmax]

/-- Settles O42: each check that fails, those before it passed, is the branch of `loadCheck` that decides. -/
theorem loadChecksInOrder : Obligations.LoadChecksInOrder := by
  intro s i hi hp
  obtain ⟨k, rfl⟩ := exists_loadKind hi
  have refused {code : ResultCode} (hc : loadCheck s = some code) := exec_load_refused k hp hc
  refine ⟨fun h1 h2 => refused (if_pos ⟨h1, h2⟩), fun hst => ?_⟩
  have hchecks := loadCheck_ready hst
  refine ⟨fun htot => ?_, fun htot => ⟨fun hcap => ?_, fun hcap hbuf => ⟨fun htop => ?_, fun htop hmax => ?_⟩⟩⟩
  · exact refused (by simp [hchecks, htot])
  · exact refused (by simp [hchecks, htot, hcap])
  · exact refused (by simp [hchecks, htop])
  · exact refused (by simp [hchecks, htot, hcap, Nat.not_lt.2 hbuf, Nat.not_lt.2 htop, hmax])

/-- Settles O43: SETUP, in the step of the checks it passes, for the two kinds of LOAD. -/
theorem loadSetsUpTheTransfer : Obligations.LoadSetsUpTheTransfer := by
  intro s hp hst htot hcap hbuf htop hmax
  have hc := loadCheck_passes hst htot hcap hbuf htop hmax
  exact ⟨exec_load_setup .bin hp hc, exec_load_setup .nv hp hc⟩

/-! ### The wait of a LOAD -/

theorem exec_load_wait (k : LoadKind) (hp : s.phase = .wait) : exec k.instr s = loadWait s := by
  rw [exec_load]
  simp only [loadStep, hp]

theorem sizeCheck_sent (h : s.prog.total.toNat ≤ s.prog.sent.toNat) : sizeCheck s = setLatch .copyComplete s :=
  if_pos h

theorem sizeCheck_unsent (h : s.prog.sent.toNat < s.prog.total.toNat) : sizeCheck s = s :=
  if_neg (Nat.not_le.2 h)

/-- R92: COPY_COMPLETE, set and consumed in one tick, is left as it was, 0. -/
theorem consume_set_copyComplete (h : s.copyComplete = false) :
    consumeLatch .copyComplete (setLatch .copyComplete s) =
      { s with history := .latchConsumed .copyComplete :: .latchSet .copyComplete :: s.history } := by
  cases s
  cases h
  rfl

/-- Settles O45: the size check's two sides, the second with the two ends of a failed poll check. -/
theorem loadWaitTicks : Obligations.LoadWaitTicks := by
  intro s i hi hp hcc
  obtain ⟨k, rfl⟩ := exists_loadKind hi
  rw [exec_load_wait k hp, loadWait]
  refine ⟨fun hsent => ?_, fun hsent hl => ?_, fun hsent hl => ?_⟩
  · rw [sizeCheck_sent hsent, pollTick_hit _ _ (by simp), consume_set_copyComplete hcc]
  · rw [sizeCheck_unsent hsent, pollTick_miss _ _ hcc hl]
  · rw [sizeCheck_unsent hsent, pollTick_out _ _ hcc hl, fail]

/-! ### The per-frame step -/

/-- R95: a queued frame-ack and a free port are what the Continuation unit waits for between frames. -/
theorem continuationStep_perFrame (hpend : s.contPending = true) (hcont : s.cont = .idle) (hl : s.lock = .free) :
    continuationStep s = .next (perFrame { s with contPending := false }) := by
  have he : continuationEnabled s = true := by simp [continuationEnabled, hcont, hpend, hl]
  simp only [continuationStep, he, if_true, hcont]

theorem step_perFrame {rest : List Turn} (hag : s.agenda = .continuation :: rest) (hpend : s.contPending = true)
    (hcont : s.cont = .idle) (hl : s.lock = .free) :
    step s = .next (perFrame { s with agenda := rest, contPending := false }) := by
  rw [step_turn hag]
  exact continuationStep_perFrame (s := { s with agenda := rest }) hpend hcont hl

/-- R96: an ack with no transfer in flight is stale. -/
theorem perFrame_stale (h : s.dlState ≠ .transferring) : perFrame s = s :=
  if_pos h

/-- R96: the last frame's ack completes the transfer. -/
theorem perFrame_last (h : s.dlState = .transferring) (hsent : s.prog.total.toNat ≤ (s.prog.sent + s.cur.frame).toNat) :
    perFrame s =
      { advanceFrame s with dlState := .complete, cur := { (advanceFrame s).cur with tag := 0#32 } } := by
  rw [perFrame, if_neg (not_not.2 h)]
  exact if_pos hsent

/-- R96: any other ack takes the port for the next frame. -/
theorem perFrame_next (h : s.dlState = .transferring) (hsent : (s.prog.sent + s.cur.frame).toNat < s.prog.total.toNat) :
    perFrame s = { advanceFrame s with cont := .frame (.byte 0), lock := .continuation } := by
  rw [perFrame, if_neg (not_not.2 h)]
  exact if_neg (Nat.not_le.2 hsent)

/-- The minimum, asked of its second word first. -/
theorem minWord_eq (a b : Word) : minWord a b = if b.toNat < a.toNat then b else a := by
  unfold minWord
  by_cases h : a.toNat ≤ b.toNat
  · rw [if_pos h, if_neg (Nat.not_lt.2 h)]
  · rw [if_neg h, if_pos (Nat.not_le.1 h)]

/-- Settles O46: the three ends of the per-frame step. -/
theorem perFrameStep : Obligations.PerFrameStep := by
  intro s rest hag hpend hcont hl
  rw [step_perFrame hag hpend hcont hl]
  refine ⟨fun hst => ?_, ?_⟩
  · rw [perFrame_stale (s := { s with agenda := rest, contPending := false }) hst]
  · rintro hst frame count hframe rfl
    rw [← minWord_eq] at hframe
    subst hframe
    refine ⟨fun hsent => ?_, fun hsent => ?_⟩
    · rw [perFrame_last (s := { s with agenda := rest, contPending := false }) hst hsent]
      rfl
    · rw [perFrame_next (s := { s with agenda := rest, contPending := false }) hst hsent]
      rfl

/-! ### XMIT -/

theorem exec_xmit_refused {code : ResultCode} (hp : s.phase = .start) (hc : xmitCheck s = some code) :
    exec .xmit s = .next (finish code s) := by
  change execXmit s = _
  simp only [execXmit, hp, hc, fail]

theorem exec_xmit_setup (hp : s.phase = .start) (hc : xmitCheck s = none) :
    exec .xmit s = .next { s with phase := .xmit (.byte 0) } := by
  change execXmit s = _
  simp only [execXmit, hp, hc]

theorem exec_xmit_access {p : XmitPos} (hp : s.phase = .xmit p) : exec .xmit s = xmitAccess p s := by
  change execXmit s = _
  simp only [execXmit, hp]

/-- R99: XMIT's two checks, in their order. -/
theorem xmitCheck_eq (s : State) :
    xmitCheck s =
      if s.ops.total = 0#32 ∨ s.cfg.bufCap < s.ops.total.toNat then some .invalid
      else if 2 ^ s.cfg.hostAddrW < s.ops.src.toNat + s.ops.total.toNat then some .invalid
      else none := by
  simp only [xmitCheck, passesHostTop, gt_iff_lt, decide_eq_true_eq]

/-- R99: what it takes for both to pass. -/
theorem xmitCheck_passes (htot : s.ops.total ≠ 0#32) (hbuf : s.ops.total.toNat ≤ s.cfg.bufCap)
    (htop : s.ops.src.toNat + s.ops.total.toNat ≤ 2 ^ s.cfg.hostAddrW) : xmitCheck s = none := by
  simp [xmitCheck_eq, htot, Nat.not_lt.2 hbuf, Nat.not_lt.2 htop]

/-- R99: the Send ends XMIT, which gives the port back. -/
theorem exec_xmit_send (hp : s.phase = .xmit .send) (hl : s.lock ≠ .continuation) :
    exec .xmit s = .next (finish .ok { send s.cfg.codeXmitSent s with lock := .free }) := by
  rw [exec_xmit_access hp, xmitAccess, commandAccess_granted hl]
  change Host.Outcome.next (finish .ok (send s.cfg.codeXmitSent { s with lock := .command })) = _
  cases hirq : s.peerIrq <;> simp only [send, hirq] <;> rfl

/-- Settles O49: the checks of XMIT's start, and its Send. -/
theorem xmitPhases : Obligations.XmitPhases := by
  intro s
  refine ⟨fun hp hsize => ?_, fun hp htot hbuf => ⟨fun htop => ?_, fun htop => ?_⟩, exec_xmit_send⟩
  · exact exec_xmit_refused hp (by simp [xmitCheck_eq, hsize])
  · exact exec_xmit_refused hp (by simp [xmitCheck_eq, htop])
  · exact exec_xmit_setup hp (xmitCheck_passes htot hbuf htop)

/-! ### A PREPARE that finds no ready code -/

/-- With a Command-unit turn scheduled, a command past its decoding runs. -/
theorem step_exec {i : Instr} {rest : List Turn} (hag : s.agenda = .command :: rest) (hb : s.busy = true)
    (hc : currentCommand s = some i) (hp : s.phase ≠ .decode) : step s = exec i { s with agenda := rest } := by
  rw [step_command hag]
  rcases commandStep_cases (s := { s with agenda := rest }) hb with ⟨hn, -⟩ | ⟨j, hj, ⟨hd, -⟩ | ⟨-, he⟩⟩
  · exact absurd (hc.symm.trans hn) nofun
  · exact absurd hd hp
  · rw [he, Option.some.inj (hj.symm.trans hc)]

/-- A PREPARE in its wait, no ready code having come, scheduled for `n` more turns. -/
structure AwaitingPeer (n : Nat) (rest : List Turn) (s : State) : Prop where
  busy : s.busy = true
  command : currentCommand s = some .prepare
  phase : s.phase = .wait
  notStarted : s.copyStarted = false
  agenda : s.agenda = List.replicate n .command ++ rest

variable {rest : List Turn}

/-- R12: a check that fails with others left costs one of the budget and changes nothing else. -/
theorem AwaitingPeer.miss {n : Nat} (h : AwaitingPeer (n + 1) rest s) (hl : s.pollLeft ≠ 1#32) :
    step s = .next
      { s with pollLeft := s.pollLeft - 1#32, agenda := List.replicate n .command ++ rest } :=
  calc
    step s = exec .prepare { s with agenda := List.replicate n .command ++ rest } :=
      step_exec h.agenda h.busy h.command (by simp [h.phase])
    _ = _ := exec_prepare_wait (by exact h.phase)
    _ = _ := pollTick_miss _ _ h.notStarted hl

/-- R12: the check that fails with one left ends PREPARE. -/
theorem AwaitingPeer.timeout {n : Nat} (h : AwaitingPeer (n + 1) rest s) (hl : s.pollLeft = 1#32) :
    step s = .next (finish .timeout
      { s with
        pollLeft := 0#32
        dlState := .timeoutFailed
        agenda := List.replicate n .command ++ rest }) :=
  calc
    step s = exec .prepare { s with agenda := List.replicate n .command ++ rest } :=
      step_exec h.agenda h.busy h.command (by simp [h.phase])
    _ = _ := exec_prepare_wait (by exact h.phase)
    _ = _ := pollTick_out _ _ h.notStarted hl

/-- R12: `n` checks that fail, while the budget lasts, cost `n` of it and change nothing else. -/
theorem AwaitingPeer.misses {n m : Nat} (h : AwaitingPeer (n + m) rest s) (hn : n < s.pollLeft.toNat) :
    runSteps n s = .next
      { s with pollLeft := s.pollLeft - BitVec.ofNat 32 n, agenda := List.replicate m .command ++ rest } := by
  induction n generalizing s with
  | zero =>
    have hag := h.agenda
    rw [Nat.zero_add] at hag
    simp [← hag]
  | succ n ih =>
    rw [Nat.succ_add] at h
    have hl : s.pollLeft ≠ 1#32 := fun e => by simp [e] at hn
    have hleft : s.pollLeft - 1#32 - BitVec.ofNat 32 n = s.pollLeft - BitVec.ofNat 32 (n + 1) := by
      rw [BitVec.ofNat_add]
      bv_omega
    rw [runSteps_succ (h.miss hl), ← hleft]
    exact ih ⟨h.busy, h.command, h.phase, h.notStarted, rfl⟩ (by simp only; bv_omega)

/-- The wait a PREPARE enters, `n` turns of it left. -/
def prepareWaiting (n : Nat) (rest : List Turn) (s : State) : State :=
  { startPoll s.cfg.nPrepare .wait (prepareStart s) with agenda := List.replicate n .command ++ rest }

/-- Settles O41: START, one check fewer than the budget that fails with iterations left, and the last check. -/
theorem prepareTimesOutAfterItsBudget : Obligations.PrepareTimesOutAfterItsBudget := by
  intro s rest hb hc hp hcs hag
  obtain ⟨m, hm⟩ : ∃ m, s.cfg.nPrepare.toNat = m + 1 :=
    Nat.exists_eq_succ_of_ne_zero fun e => nPrepare_ne_zero s.cfg (BitVec.eq_of_toNat_eq e)
  rw [hm] at hag ⊢
  have hstart : step s = .next (prepareWaiting (m + 1) rest s) := by
    rw [step_exec hag hb hc (by simp [hp])]
    exact exec_prepare_start (by exact hp)
  have hwait (n r : Nat) (hnr : n + r = m) :
      runSteps (n + 1) s =
        .next { prepareWaiting (r + 1) rest s with pollLeft := s.cfg.nPrepare - BitVec.ofNat 32 n } := by
    subst hnr
    rw [runSteps_succ hstart]
    exact AwaitingPeer.misses (n := n) (m := r + 1) ⟨hb, hc, rfl, hcs, rfl⟩
      (by change n < s.cfg.nPrepare.toNat; omega)
  refine ⟨fun k hk => ?_, ?_⟩
  · cases k with
    | zero => exact ⟨s, rfl, hb⟩
    | succ n => exact ⟨_, hwait n (m - n) (by omega), hb⟩
  · have hlast : s.cfg.nPrepare - BitVec.ofNat 32 m = 1#32 := by
      have := s.cfg.nPrepare.isLt
      bv_omega
    rw [runSteps_add (hwait m 0 rfl), hlast]
    exact runSteps_succ (AwaitingPeer.timeout (n := 0) (rest := rest) ⟨hb, hc, rfl, hcs, rfl⟩ rfl)

end Sys2Proof.Machine

/-! PROOFS. The accounting of a LOAD (41_download.md R97): what `j` per-frame updates leave of a transfer of `S` bytes in
frames of `F`, for every `j`, and the number of frames the transfer takes. -/

namespace Sys2Proof.Machine

/-! ### The number of frames -/

/-- A frame is left to send exactly while bytes are: `ceil(S/F)` counts the frames. -/
theorem lt_frames_iff {S F j : Nat} (hF : 1 ≤ F) : j < (S + F - 1) / F ↔ j * F < S := by
  rw [Nat.lt_div_iff_mul_lt hF]
  omega

/-- The frame sizes, each `F` or what is left, add up to what has been sent. -/
theorem sum_frameSizes (S F k : Nat) :
    ((List.range k).map fun j => min F (S - j * F)).sum = min (k * F) S := by
  induction k with
  | zero => simp
  | succ k ih =>
    rw [List.range_succ, List.map_append, List.sum_append, ih, List.map_singleton, List.sum_singleton, Nat.succ_mul]
    omega

/-! ### After `j` updates -/

/-- What one per-frame update adds to CUR_COUNT (R96): nothing for an NV transfer without NV_COUNT_INCREMENTS. -/
def countStep (c : Config) : LoadKind → Nat
  | .bin => 1
  | .nv => if c.nvCountIncrements then 1 else 0

/-- R97: the counters and the descriptor of a LOAD of `S` bytes in frames of `F`, set up from `s`, after `j` per-frame
updates. Past the last frame nothing is left and the frame is empty. -/
structure FramesSent (s : State) (kind : LoadKind) (S F j : Nat) (u : State) : Prop where
  cfg : u.cfg = s.cfg
  tag : u.cur.tag = kind.tag s.cfg
  total : u.prog.total = s.ops.total
  sent : u.prog.sent.toNat = min (j * F) S
  remain : u.prog.remain.toNat = S - j * F
  frame : u.cur.frame.toNat = min F (S - j * F)
  src : u.cur.src = s.ops.src + BitVec.ofNat 32 (min (j * F) S)
  count : u.cur.count = kind.firstCount s.ops + BitVec.ofNat 32 (j * countStep s.cfg kind)

variable {s u : State} {kind : LoadKind} {S F j : Nat}

/-- R91: SETUP. -/
theorem loadSetup_framesSent (hS : s.ops.total.toNat = S) (hF : s.ops.cap.toNat = F) :
    FramesSent s kind S F 0 (loadSetup kind s) where
  cfg := rfl
  tag := rfl
  total := rfl
  sent := by simp
  remain := by simpa using hS
  frame := by simp [minWord_toNat, hS, hF]
  src := by simp
  count := by simp

/-- R96: CUR_COUNT is advanced for a binary transfer, and for an NV one if NV_COUNT_INCREMENTS is 1. -/
theorem advanceFrame_count (htag : u.cur.tag = kind.tag u.cfg) :
    (advanceFrame u).cur.count = u.cur.count + BitVec.ofNat 32 (countStep u.cfg kind) := by
  obtain ⟨hne, -⟩ := u.cfg.tags
  cases kind with
  | bin => simp [advanceFrame, htag, LoadKind.tag, hne, countStep]
  | nv => cases h : u.cfg.nvCountIncrements <;> simp [advanceFrame, htag, LoadKind.tag, countStep, h]

/-- R97: one more update. -/
theorem FramesSent.advance (h : FramesSent s kind S F j u) (hS : S < 2 ^ 32) :
    FramesSent s kind S F (j + 1) (advanceFrame u) := by
  have hnext : (j + 1) * F = j * F + F := Nat.succ_mul j F
  have hfit : u.cur.frame.toNat ≤ u.prog.remain.toNat := by
    rw [h.frame, h.remain]
    exact Nat.min_le_right _ _
  have hremain : (u.prog.remain - u.cur.frame).toNat = S - j * F - min F (S - j * F) := by
    rw [BitVec.toNat_sub_of_le hfit, h.remain, h.frame]
  have hsum : min (j * F) S + min F (S - j * F) = min ((j + 1) * F) S := by omega
  refine { h with sent := ?_, remain := ?_, frame := ?_, src := ?_, count := ?_ }
  · change (u.prog.sent + u.cur.frame).toNat = _
    rw [BitVec.toNat_add, h.sent, h.frame, hsum, Nat.mod_eq_of_lt (by omega)]
  · change (u.prog.remain - u.cur.frame).toNat = _
    omega
  · change (minWord u.cur.frame (u.prog.remain - u.cur.frame)).toNat = _
    rw [minWord_toNat, hremain, h.frame]
    omega
  · have hframe : u.cur.frame = BitVec.ofNat 32 (min F (S - j * F)) := by
      rw [← h.frame, BitVec.ofNat_toNat, BitVec.setWidth_eq]
    change u.cur.src + u.cur.frame = _
    rw [h.src, hframe, BitVec.add_assoc, ← BitVec.ofNat_add, hsum]
  · rw [advanceFrame_count (h.cfg ▸ h.tag), h.cfg, h.count, BitVec.add_assoc, ← BitVec.ofNat_add, ← Nat.succ_mul]

/-- R97: the updates from SETUP on. -/
theorem framesSent_of_updates {at_ : Nat → State} (hS : s.ops.total.toNat = S) (hF : s.ops.cap.toNat = F)
    (h0 : at_ 0 = loadSetup kind s) (hnext : ∀ j, at_ (j + 1) = advanceFrame (at_ j)) (j : Nat) :
    FramesSent s kind S F j (at_ j) := by
  induction j with
  | zero => exact h0 ▸ loadSetup_framesSent hS hF
  | succ j ih => exact hnext j ▸ ih.advance (hS ▸ s.ops.total.isLt)

/-- R97: the frame an update advances over is full, but for the last. -/
theorem frameSize_eq {k : Nat} (hk : ∀ j, j < k ↔ j * F < S) (hj : j < k) :
    min F (S - j * F) = if j + 1 < k then F else S - (k - 1) * F := by
  split
  · next hlt =>
    have := (hk (j + 1)).1 hlt
    rw [Nat.succ_mul] at this
    omega
  · next hlast =>
    obtain rfl : k = j + 1 := by omega
    have := mt (hk (j + 1)).2 (lt_irrefl _)
    rw [Nat.succ_mul] at this
    rw [Nat.add_sub_cancel]
    omega

/-- Settles O48: `FramesSent` before each of the `k = ceil(S/F)` updates and after the last. -/
theorem frameAccounting : Obligations.FrameAccounting := by
  rintro s kind S F k at_ - hF hS hcap hk h0 hnext
  have hsent := framesSent_of_updates hS hcap h0 hnext
  have hframes (j : Nat) : j < k ↔ j * F < S := hk ▸ lt_frames_iff hF
  have hall : S ≤ k * F := Nat.not_lt.1 (mt (hframes k).2 (lt_irrefl k))
  have hcount := (hsent k).count
  refine ⟨fun j hj => ?_, ?_, ?_, ?_, (hsent k).total, ?_, ?_, ?_, ?_⟩
  · have hlt := (hframes j).1 hj
    have hmin : min (j * F) S = j * F := Nat.min_eq_left hlt.le
    exact ⟨(hsent j).frame.trans (frameSize_eq hframes hj), (hsent j).sent.trans hmin, (hsent j).remain, hlt,
      hmin ▸ (hsent j).src⟩
  · exact (hsent k).sent.trans (Nat.min_eq_right hall)
  · exact BitVec.eq_of_toNat_eq ((hsent k).remain.trans (Nat.sub_eq_zero_of_le hall))
  · exact BitVec.eq_of_toNat_eq ((hsent k).frame.trans (by simp [Nat.sub_eq_zero_of_le hall]))
  · simp only [(hsent _).frame, sum_frameSizes]
    exact Nat.min_eq_right hall
  · rintro rfl
    simpa [countStep, LoadKind.firstCount] using hcount
  · rintro rfl hinc
    simpa [countStep, LoadKind.firstCount, hinc] using hcount
  · rintro rfl hinc
    simpa [countStep, LoadKind.firstCount, hinc] using hcount

end Sys2Proof.Machine

/-! PROOFS. FrameTransfer (41_download.md R88) from its first access to its Send: the window it leaves, and its accesses as
turns of the unit that makes them, the Command unit for a LOAD's first frame (R91) and the Continuation unit for the next
ones (R96). -/

namespace Sys2Proof.Machine

/-! ### Bytes copied, and what a word read finds of them -/

/-- Each byte of a run of writes reads back. -/
theorem Memory.read_writeBytes_inside {m : Memory} (a : Nat) (bs : List Byte) (hm : Memory.wf m = true) {i : Nat}
    (hi : i < bs.length) : Memory.read (Memory.writeBytes m a bs) (a + i) = bs[i] := by
  induction bs generalizing m a i with
  | nil => simp at hi
  | cons b bs ih =>
    cases i with
    | zero =>
      change Memory.read (Memory.writeBytes (Memory.write m a b) (a + 1) bs) a = b
      rw [Memory.read_writeBytes_outside _ _ _ (Or.inl (by omega)), Memory.read_write_same a b hm]
    | succ i =>
      have hi' : i < bs.length := Nat.lt_of_succ_lt_succ hi
      change Memory.read (Memory.writeBytes (Memory.write m a b) (a + 1) bs) (a + (i + 1)) = bs[i]
      rw [← ih (a + 1) (Memory.wf_write a b hm) hi', Nat.add_right_comm, Nat.add_assoc]

theorem Memory.getElem_readBytes (m : Memory) (a n : Nat) {i : Nat} (hi : i < (Memory.readBytes m a n).length) :
    (Memory.readBytes m a n)[i] = Memory.read m (a + i) := by
  induction n generalizing a i with
  | zero => simp [Memory.readBytes] at hi
  | succ n ih =>
    cases i with
    | zero => rfl
    | succ i =>
      have hi' : i < (Memory.readBytes m (a + 1) n).length := by simpa using hi
      change (Memory.readBytes m (a + 1) n)[i] = _
      rw [ih (a + 1) hi', Nat.add_assoc, Nat.add_comm 1 i]

/-- `n` bytes of one memory, copied in address order to another. -/
def Memory.copy (src : Memory) (a : Nat) (dst : Memory) (b n : Nat) : Memory :=
  Memory.writeBytes dst b (Memory.readBytes src a n)

/-- A copy starts with its first byte. -/
theorem Memory.copy_succ (src : Memory) (a : Nat) (dst : Memory) (b n : Nat) :
    Memory.copy src a dst b (n + 1) = Memory.copy src (a + 1) (Memory.write dst b (Memory.read src a)) (b + 1) n :=
  rfl

theorem Memory.wf_copy (src : Memory) (a b n : Nat) {dst : Memory} (h : Memory.wf dst = true) :
    Memory.wf (Memory.copy src a dst b n) = true :=
  Memory.wf_writeBytes _ _ h

theorem Memory.read_copy_inside (src : Memory) (a b : Nat) {dst : Memory} {n i : Nat} (h : Memory.wf dst = true)
    (hi : i < n) : Memory.read (Memory.copy src a dst b n) (b + i) = Memory.read src (a + i) := by
  rw [Memory.copy, Memory.read_writeBytes_inside _ _ h (by simpa using hi), Memory.getElem_readBytes]

theorem Memory.read_copy_outside (src : Memory) (a b : Nat) (dst : Memory) {n c : Nat} (h : Outside c b n) :
    Memory.read (Memory.copy src a dst b n) c = Memory.read dst c :=
  Memory.read_writeBytes_outside _ _ _ (by simpa using h)

theorem Memory.readWord_writeWord_apart (m : Memory) {a b : Nat} (v : Word) (h : a + 4 ≤ b ∨ b + 4 ≤ a) :
    Memory.readWord (Memory.writeWord m a v) b = Memory.readWord m b :=
  Memory.readWord_congr fun _ h1 h2 => Memory.read_writeWord_outside _ _ _ (by omega)

/-! ### The window a FrameTransfer leaves -/

/-- R88: the frame's bytes in the buffer, then its size, tag and count in the three fields. -/
def frameWindow (m : FrameMap) (d : Descriptor) (host window : Memory) : Memory :=
  Memory.writeWord
    (Memory.writeWord
      (Memory.writeWord (Memory.copy host d.src.toNat window m.buf.toNat d.frame.toNat) m.size.toNat d.frame)
      m.tag.toNat d.tag)
    m.count.toNat d.count

section FrameWindow

variable {m : FrameMap} {d : Descriptor} {host window : Memory}

/-- R88: the window holds the frame and its three fields, and is as before elsewhere. -/
structure HoldsFrame (m : FrameMap) (d : Descriptor) (host window w : Memory) : Prop where
  payload : ∀ i, i < d.frame.toNat → Memory.read w (m.buf.toNat + i) = Memory.read host (byteAddr d.src i)
  size : Memory.readWord w m.size.toNat = d.frame
  tag : Memory.readWord w m.tag.toNat = d.tag
  count : Memory.readWord w m.count.toNat = d.count
  others : ∀ b, Outside b m.buf.toNat d.frame.toNat → Outside b m.size.toNat 4 → Outside b m.tag.toNat 4 →
    Outside b m.count.toNat 4 → Memory.read w b = Memory.read window b

/-- R9 (c), R88: the buffer and the fields are apart, so each write of the frame stands. -/
theorem frameWindow_holdsFrame {n cap : Nat} (hm : m.Fits n cap) (hd : d.frame.toNat ≤ cap)
    (hw : Memory.wf window = true) : HoldsFrame m d host window (frameWindow m d host window) := by
  obtain ⟨-, -, hbs, hbt, hbc, hst, hsc, htc⟩ := hm
  have hw0 := Memory.wf_copy host d.src.toNat m.buf.toNat d.frame.toNat hw
  have hw1 := Memory.wf_writeWord m.size.toNat d.frame hw0
  have hw2 := Memory.wf_writeWord m.tag.toNat d.tag hw1
  refine ⟨fun i hi => ?_, ?_, ?_, ?_, fun b hb hs ht hc => ?_⟩ <;> unfold frameWindow
  · rw [Memory.read_writeWord_outside _ _ _ (by omega), Memory.read_writeWord_outside _ _ _ (by omega),
      Memory.read_writeWord_outside _ _ _ (by omega), Memory.read_copy_inside _ _ _ hw hi, byteAddr_eq]
  · rw [Memory.readWord_writeWord_apart _ _ hsc.symm, Memory.readWord_writeWord_apart _ _ hst.symm,
      Memory.readWord_writeWord _ _ hw0]
  · rw [Memory.readWord_writeWord_apart _ _ htc.symm, Memory.readWord_writeWord _ _ hw1]
  · exact Memory.readWord_writeWord _ _ hw2
  · rw [Memory.read_writeWord_outside _ _ _ hc, Memory.read_writeWord_outside _ _ _ ht,
      Memory.read_writeWord_outside _ _ _ hs, Memory.read_copy_outside _ _ _ _ hb]

end FrameWindow

/-! ### One access of FrameTransfer -/

variable {s u : State} {i : Nat} {w : Memory} {es : List Event}

/-- `u` with other window contents and another history: what window writes and host reads make of it. -/
def State.withWindow (w : Memory) (es : List Event) (u : State) : State := { u with window := w, history := es }

@[simp] theorem withWindow_cfg : (u.withWindow w es).cfg = u.cfg := rfl
@[simp] theorem withWindow_phase : (u.withWindow w es).phase = u.phase := rfl
@[simp] theorem withWindow_map : (u.withWindow w es).map = u.map := rfl
@[simp] theorem withWindow_cur : (u.withWindow w es).cur = u.cur := rfl

theorem hostRead1_withWindow {a : Nat} (h : a < 2 ^ u.cfg.hostAddrW) :
    ∃ e, hostRead1 a (u.withWindow w es) = .ok (Memory.read u.hostMem a, u.withWindow w (e :: es)) :=
  ⟨_, hostRead1_ok.2 ⟨h, rfl⟩⟩

theorem memWrite1_withWindow {a : Nat} (b : Byte) (h : a < u.cfg.shmSize) :
    ∃ e, memWrite1 a b (u.withWindow w es) = .ok (u.withWindow (Memory.write w a b) (e :: es)) :=
  ⟨_, memWrite1_ok.2 ⟨h, rfl⟩⟩

theorem memWrite4_withWindow {a : Nat} (v : Word) (h4 : a % 4 = 0) (h : a + 4 ≤ u.cfg.shmSize) :
    ∃ e, memWrite4 a v (u.withWindow w es) = .ok (u.withWindow (Memory.writeWord w a v) (e :: es)) :=
  ⟨_, memWrite4_ok.2 ⟨h4, h, rfl⟩⟩

/-- R9 (b): every byte of a map's buffer is inside the window. -/
theorem FrameMap.Fits.buffer_lt {m : FrameMap} {n cap : Nat} (hm : m.Fits n cap) (hi : i < cap) :
    byteAddr m.buf i < n := by
  obtain ⟨-, ⟨-, -, -, hbuf⟩, -⟩ := hm
  rw [byteAddr_eq]
  omega

/-- A state in which every access of the frame in flight exists: R9 for the map, R90 and R96 for the frame. -/
structure FrameFits (u : State) : Prop where
  map : u.map.Fits u.cfg.shmSize u.cfg.bufCap
  frame : u.cur.frame.toNat ≤ u.cfg.bufCap
  source : u.cur.src.toNat + u.cur.frame.toNat ≤ 2 ^ u.cfg.hostAddrW

theorem DataOk.frameFits (h : DataOk s) : FrameFits s := by
  obtain ⟨hrem, hbuf, htop, -⟩ := h.frame
  exact ⟨h.map_fits, hbuf, by omega⟩

namespace FrameFits

variable (h : FrameFits u)
include h

theorem access_byte (hi : i < u.cur.frame.toNat) :
    ∃ e, frameAccess (.byte i) (u.withWindow w es) =
      .ok (some (.put i (Memory.read u.hostMem (byteAddr u.cur.src i))), u.withWindow w (e :: es)) := by
  obtain ⟨e, hread⟩ := hostRead1_withWindow (w := w) (es := es) (byteAddr_lt_host h.source hi)
  exact ⟨e, by simp [frameAccess, hi, hread]⟩

theorem access_put (b : Byte) (hi : i < u.cur.frame.toNat) :
    ∃ e, frameAccess (.put i b) (u.withWindow w es) =
      .ok (some (.byte (i + 1)), u.withWindow (Memory.write w (byteAddr u.map.buf i) b) (e :: es)) := by
  obtain ⟨e, hput⟩ := memWrite1_withWindow (w := w) (es := es) b (h.map.buffer_lt (hi.trans_le h.frame))
  exact ⟨e, by simp [frameAccess, hput]⟩

theorem access_size :
    ∃ e, frameAccess (.byte u.cur.frame.toNat) (u.withWindow w es) =
      .ok (some .tag, u.withWindow (Memory.writeWord w u.map.size.toNat u.cur.frame) (e :: es)) := by
  obtain ⟨⟨h4, -, -⟩, ⟨hin, -, -, -⟩, -⟩ := h.map
  obtain ⟨e, hsize⟩ := memWrite4_withWindow (w := w) (es := es) u.cur.frame h4 hin
  exact ⟨e, by simp [frameAccess, hsize]⟩

theorem access_tag :
    ∃ e, frameAccess .tag (u.withWindow w es) =
      .ok (some .count, u.withWindow (Memory.writeWord w u.map.tag.toNat u.cur.tag) (e :: es)) := by
  obtain ⟨⟨-, h4, -⟩, ⟨-, hin, -, -⟩, -⟩ := h.map
  obtain ⟨e, htag⟩ := memWrite4_withWindow (w := w) (es := es) u.cur.tag h4 hin
  exact ⟨e, by simp [frameAccess, htag]⟩

theorem access_count :
    ∃ e, frameAccess .count (u.withWindow w es) =
      .ok (some .send, u.withWindow (Memory.writeWord w u.map.count.toNat u.cur.count) (e :: es)) := by
  obtain ⟨⟨-, -, h4⟩, ⟨-, -, hin, -⟩, -⟩ := h.map
  obtain ⟨e, hcount⟩ := memWrite4_withWindow (w := w) (es := es) u.cur.count h4 hin
  exact ⟨e, by simp [frameAccess, hcount]⟩

end FrameFits

/-! ### The accesses of a FrameTransfer in a row -/

/-- `u` with the control of its units elsewhere, which FrameTransfer does not read: the Command unit's phase, the
Continuation unit's, the port lock and the schedule. -/
def State.withUnits (ph : Phase) (ct : ContPhase) (l : PortLock) (ag : List Turn) (u : State) : State :=
  { u with phase := ph, cont := ct, lock := l, agenda := ag }

@[simp] theorem withUnits_phase (ph : Phase) (ct : ContPhase) (l : PortLock) (ag : List Turn) :
    (u.withUnits ph ct l ag).phase = ph := rfl

/-- R88: `n` accesses from position `p` on, the last the Send, that take the window from `w` to `w'`; the frame is that of
`u`, and the accesses are the same whatever the units of `u` do beside them. -/
inductive FrameRun (u : State) : Nat → FramePos → Memory → Memory → Prop
  | send (w : Memory) : FrameRun u 1 .send w w
  | access {n : Nat} {p q : FramePos} {w w' w'' : Memory}
      (h : ∀ ph ct l ag es, ∃ e, frameAccess p ((u.withUnits ph ct l ag).withWindow w es) =
        .ok (some q, (u.withUnits ph ct l ag).withWindow w' (e :: es)))
      (hrun : FrameRun u n q w' w'') : FrameRun u (n + 1) p w w''

theorem FrameFits.withUnits (h : FrameFits u) (ph : Phase) (ct : ContPhase) (l : PortLock) (ag : List Turn) :
    FrameFits (u.withUnits ph ct l ag) :=
  ⟨h.map, h.frame, h.source⟩

/-- R88: `n` bytes of the payload, two accesses each. -/
theorem FrameFits.run_payload (h : FrameFits u) {w' : Memory} {k : Nat} (n : Nat) (w : Memory)
    (hi : i + n ≤ u.cur.frame.toNat)
    (hrun : FrameRun u k (.byte (i + n))
      (Memory.copy u.hostMem (byteAddr u.cur.src i) w (byteAddr u.map.buf i) n) w') :
    FrameRun u (k + 2 * n) (.byte i) w w' := by
  induction n generalizing i w with
  | zero => exact hrun
  | succ n ih =>
    have hin : i < u.cur.frame.toNat := by omega
    rw [Memory.copy_succ, ← Nat.add_assoc, Nat.add_right_comm i n 1] at hrun
    exact .access (fun ph ct l ag _ => (h.withUnits ph ct l ag).access_byte hin)
      (.access (fun ph ct l ag _ => (h.withUnits ph ct l ag).access_put _ hin) (ih _ (by omega) hrun))

/-- R88: the whole FrameTransfer. -/
theorem FrameFits.run (h : FrameFits u) :
    FrameRun u (2 * u.cur.frame.toNat + 4) (.byte 0) u.window (frameWindow u.map u.cur u.hostMem u.window) := by
  rw [Nat.add_comm]
  refine h.run_payload _ _ (Nat.zero_add _).le ?_
  rw [Nat.zero_add]
  exact .access (q := .tag) (w' := Memory.writeWord _ u.map.size.toNat u.cur.frame)
      (fun ph ct l ag _ => (h.withUnits ph ct l ag).access_size)
    (.access (q := .count) (w' := Memory.writeWord _ u.map.tag.toNat u.cur.tag)
      (fun ph ct l ag _ => (h.withUnits ph ct l ag).access_tag)
    (.access (q := .send) (w' := Memory.writeWord _ u.map.count.toNat u.cur.count)
      (fun ph ct l ag _ => (h.withUnits ph ct l ag).access_count)
    (.send _)))

/-- R88: the state the Send leaves, with window contents `w`. -/
def frameSent (w : Memory) (es : List Event) (u : State) : State :=
  { u with window := w, mbxOut := u.cfg.codeFrameSent, peerIrq := true, history := es }

theorem frameAccess_send (u : State) (w : Memory) (es : List Event) :
    ∃ es', frameAccess .send (u.withWindow w es) = .ok (none, frameSent w es' u) :=
  ⟨_, congrArg (fun v => Except.ok (none, v)) (send_eq u.cfg.codeFrameSent (u.withWindow w es))⟩

/-! ### A LOAD's first frame: turns of the Command unit -/

variable {k : LoadKind} {p q : FramePos} {v : State} {rest : List Turn} {ph : Phase} {ct : ContPhase} {l : PortLock}
  {n : Nat} {w' : Memory}

theorem step_loadFrame (hb : u.busy = true) (hc : currentCommand u = some k.instr) :
    step ((u.withUnits (.frame p) ct l (.command :: rest)).withWindow w es) =
      loadFrame k p ((u.withUnits (.frame p) ct l rest).withWindow w es) :=
  (step_exec rfl (by exact hb) (by exact hc) (by simp)).trans (exec_load k _)

/-- R91: an access of FIRST_FRAME that is not its last. -/
theorem step_loadAccess (hb : u.busy = true) (hc : currentCommand u = some k.instr) (hl : l ≠ .continuation)
    (h : frameAccess p ((u.withUnits (.frame p) ct .command rest).withWindow w es) = .ok (some q, v)) :
    step ((u.withUnits (.frame p) ct l (.command :: rest)).withWindow w es) = .next { v with phase := .frame q } := by
  rw [step_loadFrame hb hc, loadFrame, commandAccess_granted hl]
  exact h ▸ rfl

/-- R91, R92: its Send starts the wait. -/
theorem step_loadSent (hb : u.busy = true) (hc : currentCommand u = some k.instr) (hl : l ≠ .continuation)
    (h : frameAccess p ((u.withUnits (.frame p) ct .command rest).withWindow w es) = .ok (none, v)) :
    step ((u.withUnits (.frame p) ct l (.command :: rest)).withWindow w es) =
      .next (startPoll (k.budget v.cfg) .wait (releaseCommand v)) := by
  rw [step_loadFrame hb hc, loadFrame, commandAccess_granted hl]
  exact h ▸ rfl

/-- R91: FIRST_FRAME from position `p` on, one turn for each access. -/
theorem FrameRun.command (hrun : FrameRun u n p w w') (hb : u.busy = true)
    (hc : currentCommand u = some k.instr) (hl : l ≠ .continuation) (es : List Event) :
    ∃ es', runSteps n
        ((u.withUnits (.frame p) ct l (List.replicate n .command ++ rest)).withWindow w es) =
      .next { frameSent w' es' (u.withUnits .wait ct .free rest) with pollLeft := k.budget u.cfg } := by
  induction hrun generalizing l es with
  | send w =>
    obtain ⟨es', hsend⟩ := frameAccess_send (u.withUnits (.frame .send) ct .command rest) w es
    exact ⟨es', runSteps_succ (step_loadSent hb hc hl hsend)⟩
  | @access n p q w w' w'' h hrun ih =>
    obtain ⟨e, haccess⟩ := h (.frame p) ct .command (List.replicate n .command ++ rest) es
    obtain ⟨es', hrest⟩ := ih (l := .command) nofun (e :: es)
    exact ⟨es', (runSteps_succ (step_loadAccess hb hc hl haccess)).trans hrest⟩

/-- A state that stands where `withUnits` puts it. -/
theorem eq_withUnits {ag : List Turn} (hp : s.phase = ph) (hct : s.cont = ct)
    (hl : s.lock = l) (hag : s.agenda = ag) : s = (s.withUnits ph ct l ag).withWindow s.window s.history := by
  subst hp hct hl hag
  rfl

/-- R91: FIRST_FRAME from its first access on. -/
theorem runSteps_firstFrame (hfits : FrameFits s) (hb : s.busy = true) (hc : currentCommand s = some k.instr)
    (hp : s.phase = .frame (.byte 0)) (hl : s.lock = .free)
    (hag : s.agenda = List.replicate (2 * s.cur.frame.toNat + 4) .command ++ rest) :
    ∃ es, runSteps (2 * s.cur.frame.toNat + 4) s = .next
      { s with
        agenda := rest
        phase := .wait
        pollLeft := k.budget s.cfg
        mbxOut := s.cfg.codeFrameSent
        peerIrq := true
        window := frameWindow s.map s.cur s.hostMem s.window
        history := es } := by
  obtain ⟨es, hrun⟩ := hfits.run.command (rest := rest) (ct := s.cont) (l := .free) hb hc nofun s.history
  rw [← eq_withUnits hp rfl hl hag] at hrun
  refine ⟨es, hrun.trans ?_⟩
  rw [hl]
  rfl

theorem currentCommand_load
    (h : validCommand s.cfg.toParams s.cmdw = some .loadBin ∨ validCommand s.cfg.toParams s.cmdw = some .loadNv) :
    ∃ k : LoadKind, currentCommand s = some k.instr ∧
      k.budget s.cfg = if validCommand s.cfg.toParams s.cmdw = some .loadBin then s.cfg.nWaitBin else s.cfg.nWaitNv := by
  rcases h with hc | hc
  · exact ⟨.bin, hc, by rw [hc]; rfl⟩
  · exact ⟨.nv, hc, by rw [hc]; rfl⟩

/-- Settles O44: the accesses of FIRST_FRAME in a row, in a state whose map and frame fit (R9, R96). -/
theorem firstFrameIsTransferred : Obligations.FirstFrameIsTransferred := by
  intro s rest h hb hload hp hl hag
  obtain ⟨hd, -⟩ := (invariant_iff s).1 h
  obtain ⟨hw, -⟩ := hd.memories
  obtain ⟨k, hc, hbudget⟩ := currentCommand_load hload
  obtain ⟨es, hrun⟩ := runSteps_firstFrame hd.frameFits hb hc hp hl hag
  have hframe := frameWindow_holdsFrame (host := s.hostMem) hd.map_fits hd.frame_le_bufCap hw
  rw [hbudget] at hrun
  refine ⟨_, hrun, ?_⟩
  dsimp only
  exact ⟨hframe.payload, hframe.size, hframe.tag, hframe.count, hframe.others, rfl⟩

/-! ### The next frames: turns of the Continuation unit -/

theorem step_continuationFrame (u : State) (p : FramePos) (rest : List Turn) :
    step ((u.withUnits ph (.frame p) .continuation (.continuation :: rest)).withWindow w es) =
      continuationAccess p ((u.withUnits ph (.frame p) .continuation rest).withWindow w es) :=
  rfl

/-- R96: an access of a next frame that is not its last. -/
theorem step_continuationAccess
    (h : frameAccess p ((u.withUnits ph (.frame p) .continuation rest).withWindow w es) = .ok (some q, v)) :
    step ((u.withUnits ph (.frame p) .continuation (.continuation :: rest)).withWindow w es) =
      .next { v with cont := .frame q } := by
  rw [step_continuationFrame, continuationAccess]
  exact h ▸ rfl

/-- R96, 10_state.md R51: its Send gives the port back. -/
theorem step_continuationSent
    (h : frameAccess p ((u.withUnits ph (.frame p) .continuation rest).withWindow w es) = .ok (none, v)) :
    step ((u.withUnits ph (.frame p) .continuation (.continuation :: rest)).withWindow w es) =
      .next { v with cont := .idle, lock := .free } := by
  rw [step_continuationFrame, continuationAccess]
  exact h ▸ rfl

/-- R96: a next frame from position `p` on, one turn for each access. -/
theorem FrameRun.continuation (hrun : FrameRun u n p w w') (es : List Event) :
    ∃ es', runSteps n
        ((u.withUnits ph (.frame p) .continuation (List.replicate n .continuation ++ rest)).withWindow w es) =
      .next (frameSent w' es' (u.withUnits ph .idle .free rest)) := by
  induction hrun generalizing es with
  | send w =>
    obtain ⟨es', hsend⟩ := frameAccess_send (u.withUnits ph (.frame .send) .continuation rest) w es
    exact ⟨es', runSteps_succ (step_continuationSent hsend)⟩
  | @access n p q w w' w'' h hrun ih =>
    obtain ⟨e, haccess⟩ := h ph (.frame p) .continuation (List.replicate n .continuation ++ rest) es
    obtain ⟨es', hrest⟩ := ih (e :: es)
    exact ⟨es', (runSteps_succ (step_continuationAccess haccess)).trans hrest⟩

/-! ### The next frame of a transfer -/

/-- R96: with more bytes left than the frame just sent, the per-frame step takes the port for the next frame. -/
theorem perFrame_more (hd : DataOk s) (hst : s.dlState = .transferring)
    (hmore : s.cur.frame.toNat < s.prog.remain.toNat) :
    perFrame s = { advanceFrame s with cont := .frame (.byte 0), lock := .continuation } := by
  have hsum := hd.progress
  refine perFrame_next hst ?_
  rw [BitVec.toNat_add]
  exact (Nat.mod_le _ _).trans_lt (by omega)

/-- R96: the next frame fits the buffer, and host memory where its source is (log 18). -/
theorem advanceFrame_fits (hd : DataOk s) (hst : s.dlState = .transferring)
    (hmore : s.cur.frame.toNat < s.prog.remain.toNat) : FrameFits (advanceFrame s) := by
  have hfits := (perFrame_dataOk hd).frameFits
  rw [perFrame_more hd hst hmore] at hfits
  exact ⟨hfits.map, hfits.frame, hfits.source⟩

theorem advanceFrame_frame (h : s.cur.frame.toNat ≤ s.prog.remain.toNat) :
    (advanceFrame s).cur.frame.toNat = min s.cur.frame.toNat (s.prog.remain.toNat - s.cur.frame.toNat) := by
  change (minWord s.cur.frame (s.prog.remain - s.cur.frame)).toNat = _
  rw [minWord_toNat, BitVec.toNat_sub_of_le h]

/-- R96: the per-frame step, then the next frame from its first access on. -/
theorem runSteps_nextFrame (hd : DataOk s) (hst : s.dlState = .transferring) (hpend : s.contPending = true)
    (hcont : s.cont = .idle) (hl : s.lock = .free) (hmore : s.cur.frame.toNat < s.prog.remain.toNat)
    (hn : (advanceFrame s).cur.frame.toNat = n)
    (hag : s.agenda = List.replicate (2 * n + 5) .continuation ++ rest) :
    ∃ es, runSteps (2 * n + 5) s = .next
      { s with
        agenda := rest
        contPending := false
        cur := (advanceFrame s).cur
        prog := (advanceFrame s).prog
        mbxOut := s.cfg.codeFrameSent
        peerIrq := true
        window := frameWindow s.map (advanceFrame s).cur s.hostMem s.window
        history := es } := by
  subst hn
  have hfits := advanceFrame_fits hd hst hmore
  have hfits' : FrameFits { advanceFrame s with contPending := false } := ⟨hfits.map, hfits.frame, hfits.source⟩
  have hstart : step s = .next
      ((State.withUnits s.phase (.frame (.byte 0)) .continuation
        (List.replicate (2 * (advanceFrame s).cur.frame.toNat + 4) .continuation ++ rest)
        { advanceFrame s with contPending := false }).withWindow s.window s.history) := by
    rw [step_perFrame hag hpend hcont hl]
    exact congrArg Host.Outcome.next
      (perFrame_more (s := { s with
        agenda := List.replicate (2 * (advanceFrame s).cur.frame.toNat + 4) .continuation ++ rest
        contPending := false }) { hd with } hst hmore)
  obtain ⟨es, hrun⟩ := hfits'.run.continuation (rest := rest) (ph := s.phase) s.history
  refine ⟨es, (runSteps_succ hstart).trans (hrun.trans ?_)⟩
  rw [hcont, hl]
  rfl

/-- Settles O47: the window after the next frame holds it. -/
theorem frameAckTransfersTheNextFrame : Obligations.FrameAckTransfersTheNextFrame := by
  intro s rest n h hst hpend hcont hl hmore hn hag
  obtain ⟨hd, -⟩ := (invariant_iff s).1 h
  obtain ⟨hw, -⟩ := hd.memories
  have hframe := (advanceFrame_frame hmore.le).trans hn.symm
  obtain ⟨es, hrun⟩ := runSteps_nextFrame hd hst hpend hcont hl hmore hframe hag
  have hfits := advanceFrame_fits hd hst hmore
  have hholds := frameWindow_holdsFrame (host := s.hostMem) hfits.map hfits.frame hw
  obtain ⟨hpayload, hsize, htag, hcount, hothers⟩ := hholds
  rw [hframe] at hpayload hothers
  refine ⟨_, hrun, ?_⟩
  dsimp only
  exact ⟨rfl, hframe, rfl, rfl, rfl, hpayload, hsize, htag, hcount, hothers, rfl⟩

end Sys2Proof.Machine

/-! PROOFS. XMIT from its checks to its completion (41_download.md R99): a unit of bytes copied to the buffer, its size
beside it, and the signal to the peer. -/

namespace Sys2Proof.Machine

variable {s u v : State} {i n : Nat} {b : Byte} {w : Memory} {es : List Event} {l : PortLock} {rest : List Turn}

/-! ### One access of XMIT -/

theorem xmitAccess_read (hl : s.lock ≠ .continuation) (hi : i < s.ops.total.toNat)
    (h : hostRead1 (byteAddr s.ops.src i) { s with lock := .command } = .ok (b, v)) :
    xmitAccess (.byte i) s = .next { v with phase := .xmit (.put i b) } := by
  simp only [xmitAccess, commandAccess_granted hl, if_pos hi, h, onOk_ok]

theorem xmitAccess_put (hl : s.lock ≠ .continuation)
    (h : memWrite1 (byteAddr s.map.buf i) b { s with lock := .command } = .ok v) :
    xmitAccess (.put i b) s = .next { v with phase := .xmit (.byte (i + 1)) } := by
  simp only [xmitAccess, commandAccess_granted hl, h, onOk_ok]

theorem xmitAccess_size (hl : s.lock ≠ .continuation)
    (h : memWrite4 s.map.size.toNat s.ops.total { s with lock := .command } = .ok v) :
    xmitAccess (.byte s.ops.total.toNat) s = .next { v with phase := .xmit .send } := by
  simp only [xmitAccess, commandAccess_granted hl, if_neg (lt_irrefl s.ops.total.toNat), h, onOk_ok]

/-! ### The turns of XMIT -/

/-- R9, R99: an accepted XMIT whose checks passed, so that its accesses exist. -/
structure XmitFits (u : State) : Prop where
  busy : u.busy = true
  command : currentCommand u = some .xmit
  map : u.map.Fits u.cfg.shmSize u.cfg.bufCap
  unit : u.ops.total.toNat ≤ u.cfg.bufCap
  source : u.ops.src.toNat + u.ops.total.toNat ≤ 2 ^ u.cfg.hostAddrW

/-- `u` with XMIT at an access of its transfer, the window and the history as they are then. -/
def xmitAt (p : XmitPos) (l : PortLock) (ag : List Turn) (w : Memory) (es : List Event) (u : State) : State :=
  (u.withUnits (.xmit p) u.cont l ag).withWindow w es

namespace XmitFits

variable (h : XmitFits u)
include h

/-- A scheduled turn of the Command unit is XMIT's. -/
theorem turn (p : XmitPos) (l : PortLock) (rest : List Turn) (w : Memory) (es : List Event) :
    step (xmitAt p l (.command :: rest) w es u) = exec .xmit (xmitAt p l rest w es u) :=
  step_exec (s := xmitAt p l (.command :: rest) w es u) rfl h.busy h.command (by simp [xmitAt])

theorem step_read (hl : l ≠ .continuation) (hi : i < u.ops.total.toNat) :
    ∃ e, step (xmitAt (.byte i) l (.command :: rest) w es u) =
      .next (xmitAt (.put i (Memory.read u.hostMem (byteAddr u.ops.src i))) .command rest w (e :: es) u) := by
  obtain ⟨e, hread⟩ := hostRead1_withWindow (u := u.withUnits (.xmit (.byte i)) u.cont .command rest) (w := w) (es := es)
    (byteAddr_lt_host h.source hi)
  exact ⟨e, (h.turn _ _ _ _ _).trans (xmitAccess_read (s := xmitAt (.byte i) l rest w es u) hl hi hread)⟩

theorem step_put (b : Byte) (hl : l ≠ .continuation) (hi : i < u.ops.total.toNat) :
    ∃ e, step (xmitAt (.put i b) l (.command :: rest) w es u) =
      .next (xmitAt (.byte (i + 1)) .command rest (Memory.write w (byteAddr u.map.buf i) b) (e :: es) u) := by
  obtain ⟨e, hput⟩ := memWrite1_withWindow (u := u.withUnits (.xmit (.put i b)) u.cont .command rest) (w := w) (es := es)
    b (h.map.buffer_lt (hi.trans_le h.unit))
  exact ⟨e, (h.turn _ _ _ _ _).trans (xmitAccess_put (s := xmitAt (.put i b) l rest w es u) hl hput)⟩

theorem step_size (hl : l ≠ .continuation) :
    ∃ e, step (xmitAt (.byte u.ops.total.toNat) l (.command :: rest) w es u) =
      .next (xmitAt .send .command rest (Memory.writeWord w u.map.size.toNat u.ops.total) (e :: es) u) := by
  obtain ⟨⟨h4, -, -⟩, ⟨hin, -, -, -⟩, -⟩ := h.map
  obtain ⟨e, hsize⟩ := memWrite4_withWindow
    (u := u.withUnits (.xmit (.byte u.ops.total.toNat)) u.cont .command rest) (w := w) (es := es) u.ops.total h4 hin
  exact ⟨e, (h.turn _ _ _ _ _).trans
    (xmitAccess_size (s := xmitAt (.byte u.ops.total.toNat) l rest w es u) hl hsize)⟩

theorem step_send (hl : l ≠ .continuation) :
    ∃ es', step (xmitAt .send l (.command :: rest) w es u) =
      .next (finish .ok
        { u with
          lock := .free
          agenda := rest
          mbxOut := u.cfg.codeXmitSent
          peerIrq := true
          window := w
          history := es' }) :=
  ⟨_, (h.turn _ _ _ _ _).trans ((exec_xmit_send (s := xmitAt .send l rest w es u) rfl hl).trans
    (congrArg (fun v => Host.Outcome.next (finish .ok { v with lock := .free }))
      (send_eq u.cfg.codeXmitSent (xmitAt .send l rest w es u))))⟩

/-- R99: `n` bytes of the unit, two turns each; what follows finds them in the buffer and the port not lost. -/
theorem run_payload (n : Nat) (w : Memory) (es : List Event) (hl : l ≠ .continuation)
    (hi : i + n ≤ u.ops.total.toNat) :
    ∃ l' es', l' ≠ .continuation ∧
      runSteps (2 * n) (xmitAt (.byte i) l (List.replicate (2 * n) .command ++ rest) w es u) =
        .next (xmitAt (.byte (i + n)) l' rest
          (Memory.copy u.hostMem (byteAddr u.ops.src i) w (byteAddr u.map.buf i) n) es' u) := by
  induction n generalizing i w es l with
  | zero => exact ⟨l, es, hl, rfl⟩
  | succ n ih =>
    have hin : i < u.ops.total.toNat := by omega
    obtain ⟨e1, hread⟩ := h.step_read (rest := .command :: (List.replicate (2 * n) .command ++ rest)) (w := w) (es := es)
      hl hin
    obtain ⟨e2, hput⟩ := h.step_put (rest := List.replicate (2 * n) .command ++ rest) (w := w) (es := e1 :: es)
      (l := .command) (Memory.read u.hostMem (byteAddr u.ops.src i)) nofun hin
    obtain ⟨l', es', hl', hrest⟩ := ih (i := i + 1) (Memory.write w (byteAddr u.map.buf i) _) (e2 :: e1 :: es)
      (l := .command) nofun (by omega)
    refine ⟨l', es', hl', (runSteps_succ hread).trans ((runSteps_succ hput).trans (hrest.trans ?_))⟩
    rw [Memory.copy_succ, Nat.add_right_comm i 1 n]
    rfl

/-- R99: the unit, its size, and the Send that completes XMIT. -/
theorem run (hl : l ≠ .continuation) (w : Memory) (es : List Event) :
    ∃ es', runSteps (2 * u.ops.total.toNat + 2)
        (xmitAt (.byte 0) l (List.replicate (2 * u.ops.total.toNat + 2) .command ++ rest) w es u) =
      .next (finish .ok
        { u with
          lock := .free
          agenda := rest
          mbxOut := u.cfg.codeXmitSent
          peerIrq := true
          window := Memory.writeWord
            (Memory.copy u.hostMem u.ops.src.toNat w u.map.buf.toNat u.ops.total.toNat) u.map.size.toNat u.ops.total
          history := es' }) := by
  obtain ⟨l', es1, hl', hpayload⟩ :=
    h.run_payload (i := 0) (rest := .command :: .command :: rest) u.ops.total.toNat w es hl (Nat.zero_add _).le
  rw [Nat.zero_add] at hpayload
  obtain ⟨e2, hsize⟩ := h.step_size (rest := .command :: rest) (es := es1) hl'
  obtain ⟨es', hsend⟩ := h.step_send (l := .command) (rest := rest) (es := e2 :: es1) nofun
  have hag : List.replicate (2 * u.ops.total.toNat + 2) Turn.command ++ rest =
      List.replicate (2 * u.ops.total.toNat) Turn.command ++ .command :: .command :: rest := by
    rw [List.replicate_add, List.append_assoc]
    rfl
  rw [hag, runSteps_add hpayload]
  exact ⟨es', (runSteps_succ hsize).trans (runSteps_succ hsend)⟩

end XmitFits

/-- R74, R76: the OPCODE of a word that is a command. -/
theorem opcodeField_of_validCommand {c : Params} {w : Word} {i : Instr} (h : validCommand c w = some i) :
    opcodeField w = i.opcode := by
  obtain ⟨hdec, -⟩ := validCommand_eq_some_iff.1 h
  obtain ⟨-, -, hop⟩ := eq_encode_iff.1 ((decodesExactlyItsEncoding _ _).1 hdec)
  exact hop

/-- Settles O50: the checks, which pass, then the accesses of XMIT in a row. -/
theorem xmitTransfersTheUnit : Obligations.XmitTransfersTheUnit := by
  intro s rest h hb hc hp hl htot hbuf htop hag
  obtain ⟨hd, -⟩ := (invariant_iff s).1 h
  obtain ⟨hw, -⟩ := hd.memories
  have hfits : XmitFits s := ⟨hb, hc, hd.map_fits, hbuf, htop⟩
  obtain ⟨-, -, hapart, -⟩ := hd.map_fits
  have hstart : step s = .next (xmitAt (.byte 0) s.lock
      (List.replicate (2 * s.ops.total.toNat + 2) .command ++ rest) s.window s.history s) := by
    rw [step_exec hag hb hc (by simp [hp])]
    exact exec_xmit_setup (s := { s with agenda := List.replicate (2 * s.ops.total.toNat + 2) .command ++ rest }) hp
      (xmitCheck_passes htot hbuf htop)
  obtain ⟨es, hrun⟩ := hfits.run (rest := rest) (l := s.lock) (by simp [hl]) s.window s.history
  have hcopy := Memory.wf_copy s.hostMem s.ops.src.toNat s.map.buf.toNat s.ops.total.toNat hw
  refine ⟨_, (runSteps_succ hstart).trans hrun, fun i hi => ?_, ?_, fun b hbo hs => ?_, ?_⟩ <;> dsimp only [finish_window]
  · rw [Memory.read_writeWord_outside _ _ _ (by omega), Memory.read_copy_inside _ _ _ hw hi, byteAddr_eq]
  · exact Memory.readWord_writeWord _ _ hcopy
  · rw [Memory.read_writeWord_outside _ _ _ hs, Memory.read_copy_outside _ _ _ _ hbo]
  · rw [← show opcodeField s.cmdw = 0x13#8 from opcodeField_of_validCommand hc, hl]
    rfl

end Sys2Proof.Machine

/-! PROOFS. The upload commands, one Command-unit step at a time (42_upload.md R100 to R102): the phases of UL_STEP1, those of
UL_STEP2 around its copy, the validation of the size field, and what every failure exit restores. -/

namespace Sys2Proof.Machine

variable {s t u : State} {size tag count : Word} {i : Nat} {b : Byte}

/-! ### A tick of an upload poll, by its four ends -/

section UploadPoll

variable {want : Code} (hit : Phase) (out : State → Result)

/-- R101, R102: the code the command waits for. -/
theorem ulPoll_taken (hp : s.pend = true) (hv : s.mbxIn = want) :
    ulPoll want hit out s =
      .next { s with pend := false, phase := hit, history := .takeIn s.mbxIn :: s.history } := by
  rw [ulPoll, pollTick_hit _ _ hp]
  exact if_pos hv

/-- R101, R102: any other code is consumed, and the command fails. -/
theorem ulPoll_mismatch (hp : s.pend = true) (hv : s.mbxIn ≠ want) :
    ulPoll want hit out s =
      .next (finish .mismatch
        { s with
          pend := false
          notifyEn := true
          ulState := .timeoutFailed
          history := .takeIn s.mbxIn :: s.history }) := by
  rw [ulPoll, pollTick_hit _ _ hp]
  exact if_neg hv

theorem ulPoll_miss (hp : s.pend = false) (hl : s.pollLeft ≠ 1#32) :
    ulPoll want hit out s = .next { s with pollLeft := s.pollLeft - 1#32 } :=
  pollTick_miss _ out hp hl

theorem ulPoll_out (hp : s.pend = false) (hl : s.pollLeft = 1#32) :
    ulPoll want hit out s = out { s with pollLeft := 0#32 } :=
  pollTick_out _ out hp hl

end UploadPoll

/-! ### A Send inside an access sequence -/

/-- 43_notification.md R109: a Send does not read the port lock. -/
theorem send_withLock (c : Code) (l : PortLock) (s : State) :
    send c { s with lock := l } = { send c s with lock := l } := by
  cases h : s.peerIrq <;> simp [send, record, h]

/-! ### UL_STEP1 -/

theorem exec_ulStep1_start (hp : s.phase = .start) :
    exec .ulStep1 s =
      .next (startPoll s.cfg.nUlHs .poll { s with notifyEn := false, ulState := .handshake }) := by
  change execUlStep1 s = _
  simp only [execUlStep1, hp]

theorem exec_ulStep1_poll (hp : s.phase = .poll) :
    exec .ulStep1 s =
      ulPoll s.cfg.codeUlReady .success (fun s => .next { s with phase := .lastChance }) s := by
  change execUlStep1 s = _
  simp only [execUlStep1, hp]

theorem exec_ulStep1_lastChance (hp : s.phase = .lastChance) :
    exec .ulStep1 s =
      if s.mbxIn = s.cfg.codeUlReady then .next { (peekIn s).2 with pend := false, phase := .success }
      else ulFail .timeout (peekIn s).2 := by
  change execUlStep1 s = _
  simp only [execUlStep1, hp]
  rfl

/-- R101: the Send ends UL_STEP1, which gives the port back. -/
theorem exec_ulStep1_success (hp : s.phase = .success) (hl : s.lock ≠ .continuation) :
    exec .ulStep1 s =
      .next (finish .ok { send s.cfg.codeUlBegin s with ulState := .frameLoop, lock := .free }) := by
  have haccess : exec .ulStep1 s =
      commandAccess s fun s => .next (finish .ok { send s.cfg.codeUlBegin s with ulState := .frameLoop }) := by
    change execUlStep1 s = _
    simp only [execUlStep1, hp]
  rw [haccess, commandAccess_granted hl]
  exact congrArg (fun v => Host.Outcome.next (finish .ok { v with ulState := .frameLoop }))
    (send_withLock s.cfg.codeUlBegin .command s)

/-- Settles O51: the START, the four ends of a poll tick, the two of the last chance, and the success. -/
theorem uploadHandshakePhases : Obligations.UploadHandshakePhases := by
  intro s
  refine ⟨exec_ulStep1_start, fun hp hpend hv => ?taken, fun hp hpend hv => ?mismatch, fun hp hpend hl => ?miss,
    fun hp hpend hl => ?out, fun hp hv => ?lastTaken, fun hp hv => ?lastFailed, exec_ulStep1_success⟩
  case taken => rw [exec_ulStep1_poll hp, ulPoll_taken _ _ hpend hv]
  case mismatch => rw [exec_ulStep1_poll hp, ulPoll_mismatch _ _ hpend hv]
  case miss => rw [exec_ulStep1_poll hp, ulPoll_miss _ _ hpend hl]
  case out => rw [exec_ulStep1_poll hp, ulPoll_out _ _ hpend hl]
  case lastTaken => exact (exec_ulStep1_lastChance hp).trans (if_pos hv)
  case lastFailed => exact (exec_ulStep1_lastChance hp).trans (if_neg hv)

/-! ### UL_STEP2 around its copy -/

theorem exec_ulStep2_start (hp : s.phase = .start) :
    exec .ulStep2 s =
      if s.ulState ≠ .frameLoop then fail .invalid s
      else .next (startPoll s.cfg.nUlFrame .poll { s with notifyEn := false }) := by
  change execUlStep2 s = _
  simp only [execUlStep2, hp]

theorem exec_ulStep2_poll (hp : s.phase = .poll) :
    exec .ulStep2 s = ulPoll s.cfg.codeUlFrameReady (.upload .size) (fun s => ulFail .timeout s) s := by
  change execUlStep2 s = _
  simp only [execUlStep2, hp]

theorem exec_ulStep2_upload {p : UploadPos} (hp : s.phase = .upload p) : exec .ulStep2 s = uploadAccess p s := by
  change execUlStep2 s = _
  simp only [execUlStep2, hp]

/-- R102: past the frame's last byte the access is the acknowledgment. -/
theorem uploadAccess_ack (hl : s.lock ≠ .continuation) (hi : size.toNat ≤ i) :
    uploadAccess (.byte size tag i) s = .next (uploadAck tag { s with lock := .command }) := by
  simp only [uploadAccess, commandAccess_granted hl, if_neg (Nat.not_lt.2 hi)]

/-- R102: the terminating tag ends the loop. -/
theorem uploadAck_end (h : tag = s.cfg.tagUlEnd) :
    uploadAck tag { s with lock := .command } =
      finish .ok { send s.cfg.codeUlFrameAck s with notifyEn := true, ulState := .done, lock := .free } := by
  rw [uploadAck, if_pos h, send_withLock]
  rfl

theorem uploadAck_more (h : tag ≠ s.cfg.tagUlEnd) :
    uploadAck tag { s with lock := .command } = finish .ok { send s.cfg.codeUlFrameAck s with lock := .free } := by
  rw [uploadAck, if_neg h, send_withLock]
  rfl

/-- Settles O52: the two ends of CHECK, the four of a poll tick, and the acknowledgment's two. -/
theorem uploadFramePhases : Obligations.UploadFramePhases := by
  intro s
  refine ⟨fun hp hst => ?refused, fun hp hst => ?start, fun hp hpend hv => ?taken, fun hp hpend hv => ?mismatch,
    fun hp hpend hl => ?miss, fun hp hpend hl => ?out,
    fun size tag i hp hi hl => ⟨fun htag => ?loopEnd, fun htag => ?frameEnd⟩⟩
  case refused => exact (exec_ulStep2_start hp).trans (if_pos hst)
  case start => exact (exec_ulStep2_start hp).trans (if_neg (not_not.2 hst))
  case taken => rw [exec_ulStep2_poll hp, ulPoll_taken _ _ hpend hv]
  case mismatch => rw [exec_ulStep2_poll hp, ulPoll_mismatch _ _ hpend hv]
  case miss => rw [exec_ulStep2_poll hp, ulPoll_miss _ _ hpend hl]
  case out =>
    rw [exec_ulStep2_poll hp, ulPoll_out _ _ hpend hl]
    rfl
  case loopEnd => rw [exec_ulStep2_upload hp, uploadAccess_ack hl hi, uploadAck_end htag]
  case frameEnd => rw [exec_ulStep2_upload hp, uploadAccess_ack hl hi, uploadAck_more htag]

/-! ### The validation of the size field -/

/-- R102: the third field read goes on with the fields it completes. -/
theorem uploadAccess_count (hl : s.lock ≠ .continuation)
    (h : memRead4 s.map.count.toNat { s with lock := .command } = .ok (count, u)) :
    uploadAccess (.count size tag) s = uploadFields size tag count u := by
  simp only [uploadAccess, commandAccess_granted hl, h, onOk_ok]

/-- R102: what the validation refuses. -/
theorem uploadSizeBad_eq_true :
    uploadSizeBad s size = true ↔
      s.cfg.bufCap < size.toNat ∨ s.ops.ulLen.toNat < size.toNat ∨
        2 ^ s.cfg.hostAddrW < s.ops.ulDst.toNat + size.toNat := by
  simp [uploadSizeBad, passesHostTop, or_assoc]

theorem uploadFields_refused (h : uploadSizeBad s size = true) :
    uploadFields size tag count s =
      ulFail .invalid { s with ulLast := { size := size, tag := tag, count := count } } :=
  if_pos h

/-- Settles O53: inside READ the unit holds the port, so its third field read is made, and the size it then checks is
refused. -/
theorem uploadSizeIsValidated : Obligations.UploadSizeIsValidated := by
  intro s size tag h hp hsize
  obtain ⟨hd, hc⟩ := (invariant_iff s).1 h
  obtain ⟨⟨-, -, h4⟩, ⟨-, -, hin, -⟩, -⟩ := hd.map_fits
  have hlock : s.lock = .command := hc.lock.2 (by rw [hp]; rfl)
  have hread := (memRead4_ok (s := { s with lock := .command })).2 ⟨h4, hin, rfl⟩
  rw [exec_ulStep2_upload hp, uploadAccess_count (by simp [hlock]) hread]
  exact uploadFields_refused (uploadSizeBad_eq_true.2 hsize)

/-! ### What a failure restores -/

theorem uploadAck_resultCode (tag : Word) (s : State) : (uploadAck tag s).resultCode = .ok := by
  unfold uploadAck
  split <;> rfl

theorem AccessFrame.busy (h : AccessFrame s u) : u.busy = s.busy := by
  obtain ⟨w, m, x, l, es, rfl⟩ := h
  rfl

theorem LoadKind.instr_ne_upload (k : LoadKind) : k.instr ≠ .ulStep1 ∧ k.instr ≠ .ulStep2 := by
  cases k <;> decide

/-- R100 to R102: a move of an upload command leaves it running, ends it OK, leaves by `ul_fail`, or is UL_STEP2's CHECK. -/
theorem CommandMove.upload_end {c : Instr} (hm : CommandMove s c t) (hc : c = .ulStep1 ∨ c = .ulStep2) :
    t.busy = s.busy ∨ t.resultCode = .ok ∨ (t.notifyEn = true ∧ t.ulState = .timeoutFailed) ∨
      (c = .ulStep2 ∧ RunsFirst .ulStep2 s.phase) := by
  cases hm
  case held | pollMiss => exact .inl rfl
  case ulStep1Start | ulStep1Taken | ulStep1PollOut | ulStep1LastTaken => exact .inl rfl
  case ulStep2Start | ulStep2Taken => exact .inl rfl
  case uploadSize hu | uploadTag hu | uploadFields hu => exact .inl (memRead4_frame hu).busy
  case uploadRead hu => exact .inl (memRead1_frame hu).busy
  case uploadPut hu => exact .inl (hostWrite1_frame hu).busy
  case ulStep1Success => exact .inr (.inl rfl)
  case uploadAck => exact .inr (.inl (uploadAck_resultCode _ _))
  case ulStep1Mismatch | ulStep1Timeout => exact .inr (.inr (.inl ⟨rfl, rfl⟩))
  case ulStep2Mismatch | ulStep2Timeout | uploadRefused => exact .inr (.inr (.inl ⟨rfl, rfl⟩))
  case ulStep2Refused hp => exact .inr (.inr (.inr ⟨rfl, hp⟩))
  all_goals simp [LoadKind.instr_ne_upload] at hc

/-- R102: UL_STEP2 past its CHECK. -/
theorem not_runsFirst_of_pollOrUpload (h : s.phase = .poll ∨ ∃ p, s.phase = .upload p) :
    ¬RunsFirst .ulStep2 s.phase := by
  rcases h with hp | ⟨p, hp⟩ <;> simp [RunsFirst, hp, phaseFits]

/-- Settles O55: of the ends of an upload command's move, the failure exit is the only one left. -/
theorem uploadFailuresRestoreTheLine : Obligations.UploadFailuresRestoreTheLine := by
  intro s t hb ht hr
  have running : t.busy ≠ s.busy := by simp [hb, ht]
  refine ⟨fun he => ?_, fun hp he => ?_⟩
  · simpa [running, hr] using (exec_move he).upload_end (.inl rfl)
  · simpa [running, hr, not_runsFirst_of_pollOrUpload hp] using (exec_move he).upload_end (.inr rfl)

end Sys2Proof.Machine

/-! PROOFS. UL_STEP2's READ from its first field to its completion (42_upload.md R102): the three fields of the frame, its
bytes copied from the buffer to the destination, and the acknowledgment to the peer. -/

namespace Sys2Proof.Machine

variable {s u v : State} {size tag : Word} {i : Nat} {b : Byte} {m : Memory} {es : List Event} {l : PortLock}
  {rest : List Turn}

/-! ### Accesses beside a changing host memory -/

/-- `u` with other host memory contents and another history: what window reads and host writes make of it. -/
def State.withHostMem (m : Memory) (es : List Event) (u : State) : State := { u with hostMem := m, history := es }

@[simp] theorem withHostMem_phase : (u.withHostMem m es).phase = u.phase := rfl

theorem memRead1_withHostMem {a : Nat} (h : a < u.cfg.shmSize) :
    ∃ e, memRead1 a (u.withHostMem m es) = .ok (Memory.read u.window a, u.withHostMem m (e :: es)) :=
  ⟨_, memRead1_ok.2 ⟨h, rfl⟩⟩

theorem memRead4_withHostMem {a : Nat} (h4 : a % 4 = 0) (h : a + 4 ≤ u.cfg.shmSize) :
    ∃ e, memRead4 a (u.withHostMem m es) = .ok (Memory.readWord u.window a, u.withHostMem m (e :: es)) :=
  ⟨_, memRead4_ok.2 ⟨h4, h, rfl⟩⟩

theorem hostWrite1_withHostMem {a : Nat} (b : Byte) (h : a < 2 ^ u.cfg.hostAddrW) :
    ∃ e, hostWrite1 a b (u.withHostMem m es) = .ok (u.withHostMem (Memory.write m a b) (e :: es)) :=
  ⟨_, hostWrite1_ok.2 ⟨h, rfl⟩⟩

/-! ### One access of READ -/

theorem uploadAccess_size (hl : s.lock ≠ .continuation)
    (h : memRead4 s.map.size.toNat { s with lock := .command } = .ok (size, v)) :
    uploadAccess .size s = .next { v with phase := .upload (.tag size) } := by
  simp only [uploadAccess, commandAccess_granted hl, h, onOk_ok]

theorem uploadAccess_tag (hl : s.lock ≠ .continuation)
    (h : memRead4 s.map.tag.toNat { s with lock := .command } = .ok (tag, v)) :
    uploadAccess (.tag size) s = .next { v with phase := .upload (.count size tag) } := by
  simp only [uploadAccess, commandAccess_granted hl, h, onOk_ok]

theorem uploadAccess_read (hl : s.lock ≠ .continuation) (hi : i < size.toNat)
    (h : memRead1 (byteAddr s.map.buf i) { s with lock := .command } = .ok (b, v)) :
    uploadAccess (.byte size tag i) s = .next { v with phase := .upload (.put size tag i b) } := by
  simp only [uploadAccess, commandAccess_granted hl, if_pos hi, h, onOk_ok]

theorem uploadAccess_put (hl : s.lock ≠ .continuation)
    (h : hostWrite1 (byteAddr s.ops.ulDst i) b { s with lock := .command } = .ok v) :
    uploadAccess (.put size tag i b) s = .next { v with phase := .upload (.byte size tag (i + 1)) } := by
  simp only [uploadAccess, commandAccess_granted hl, h, onOk_ok]

theorem uploadFields_accepted {count : Word} (h : uploadSizeBad s size = false) :
    uploadFields size tag count s =
      .next { s with ulLast := { size := size, tag := tag, count := count }, phase := .upload (.byte size tag 0) } :=
  if_neg (by simp [h])

/-! ### The turns of READ -/

/-- R9, R102: an accepted UL_STEP2 whose field reads and buffer reads exist. -/
structure Uploading (u : State) : Prop where
  busy : u.busy = true
  command : currentCommand u = some .ulStep2
  map : u.map.Fits u.cfg.shmSize u.cfg.bufCap

/-- `u` with UL_STEP2 at an access of its READ, host memory and the history as they are then. -/
def uploadAt (p : UploadPos) (l : PortLock) (ag : List Turn) (m : Memory) (es : List Event) (u : State) : State :=
  (u.withUnits (.upload p) u.cont l ag).withHostMem m es

/-- R102: the fields of the frame the window holds. -/
def windowFields (u : State) : UploadFields where
  size := Memory.readWord u.window u.map.size.toNat
  tag := Memory.readWord u.window u.map.tag.toNat
  count := Memory.readWord u.window u.map.count.toNat

/-- R102: the state UL_STEP2 completes from, with host memory `m` and the frame's tag `tag`: acknowledged, and the loop ended
at the terminating tag. -/
def uploadAcked (tag : Word) (m : Memory) (es : List Event) (u : State) : State :=
  { u with
    lock := .free
    mbxOut := u.cfg.codeUlFrameAck
    peerIrq := true
    notifyEn := if tag = u.cfg.tagUlEnd then true else u.notifyEn
    ulState := if tag = u.cfg.tagUlEnd then .done else u.ulState
    hostMem := m
    history := es }

theorem uploadAck_eq (tag : Word) (s : State) :
    ∃ es, uploadAck tag { s with lock := .command } = finish .ok (uploadAcked tag s.hostMem es s) := by
  refine ⟨(send s.cfg.codeUlFrameAck s).history, ?_⟩
  unfold uploadAcked
  by_cases h : tag = s.cfg.tagUlEnd
  · rw [uploadAck_end h, send_eq, if_pos h, if_pos h]
  · rw [uploadAck_more h, send_eq, if_neg h, if_neg h]

namespace Uploading

variable (h : Uploading u)
include h

/-- A scheduled turn of the Command unit is READ's. -/
theorem turn (p : UploadPos) (l : PortLock) (rest : List Turn) (m : Memory) (es : List Event) :
    step (uploadAt p l (.command :: rest) m es u) = uploadAccess p (uploadAt p l rest m es u) :=
  (step_exec (s := uploadAt p l (.command :: rest) m es u) rfl h.busy h.command (by simp [uploadAt])).trans
    (exec_ulStep2_upload rfl)

theorem step_size (hl : l ≠ .continuation) :
    ∃ e, step (uploadAt .size l (.command :: rest) m es u) =
      .next (uploadAt (.tag (windowFields u).size) .command rest m (e :: es) u) := by
  obtain ⟨⟨h4, -, -⟩, ⟨hin, -, -, -⟩, -⟩ := h.map
  obtain ⟨e, hread⟩ := memRead4_withHostMem (u := u.withUnits (.upload .size) u.cont .command rest) (m := m) (es := es)
    h4 hin
  exact ⟨e, (h.turn _ _ _ _ _).trans (uploadAccess_size (s := uploadAt .size l rest m es u) hl hread)⟩

theorem step_tag (size : Word) :
    ∃ e, step (uploadAt (.tag size) .command (.command :: rest) m es u) =
      .next (uploadAt (.count size (windowFields u).tag) .command rest m (e :: es) u) := by
  obtain ⟨⟨-, h4, -⟩, ⟨-, hin, -, -⟩, -⟩ := h.map
  obtain ⟨e, hread⟩ := memRead4_withHostMem (u := u.withUnits (.upload (.tag size)) u.cont .command rest) (m := m)
    (es := es) h4 hin
  exact ⟨e, (h.turn _ _ _ _ _).trans
    (uploadAccess_tag (s := uploadAt (.tag size) .command rest m es u) nofun hread)⟩

/-- R102: the third field read, with a size that passes the validation. -/
theorem step_count (tag : Word) (hsize : uploadSizeBad u size = false) :
    ∃ e, step (uploadAt (.count size tag) .command (.command :: rest) m es u) =
      .next (uploadAt (.byte size tag 0) .command rest m (e :: es)
        { u with ulLast := { size := size, tag := tag, count := (windowFields u).count } }) := by
  obtain ⟨⟨-, -, h4⟩, ⟨-, -, hin, -⟩, -⟩ := h.map
  obtain ⟨e, hread⟩ := memRead4_withHostMem (u := u.withUnits (.upload (.count size tag)) u.cont .command rest) (m := m)
    (es := es) h4 hin
  exact ⟨e, (h.turn _ _ _ _ _).trans
    ((uploadAccess_count (s := uploadAt (.count size tag) .command rest m es u) nofun hread).trans
      (uploadFields_accepted hsize))⟩

theorem step_read (tag : Word) (hsize : uploadSizeBad u size = false) (hi : i < size.toNat) :
    ∃ e, step (uploadAt (.byte size tag i) .command (.command :: rest) m es u) =
      .next (uploadAt (.put size tag i (Memory.read u.window (byteAddr u.map.buf i))) .command rest m (e :: es) u) := by
  obtain ⟨hcap, -⟩ := uploadSizeBad_eq_false.1 hsize
  obtain ⟨e, hread⟩ := memRead1_withHostMem (u := u.withUnits (.upload (.byte size tag i)) u.cont .command rest) (m := m)
    (es := es) (h.map.buffer_lt (hi.trans_le hcap))
  exact ⟨e, (h.turn _ _ _ _ _).trans
    (uploadAccess_read (s := uploadAt (.byte size tag i) .command rest m es u) nofun hi hread)⟩

theorem step_put (tag : Word) (b : Byte) (hsize : uploadSizeBad u size = false) (hi : i < size.toNat) :
    ∃ e, step (uploadAt (.put size tag i b) .command (.command :: rest) m es u) =
      .next (uploadAt (.byte size tag (i + 1)) .command rest (Memory.write m (byteAddr u.ops.ulDst i) b) (e :: es) u) := by
  obtain ⟨-, -, htop⟩ := uploadSizeBad_eq_false.1 hsize
  obtain ⟨e, hput⟩ := hostWrite1_withHostMem (u := u.withUnits (.upload (.put size tag i b)) u.cont .command rest)
    (m := m) (es := es) b (byteAddr_lt_host htop hi)
  exact ⟨e, (h.turn _ _ _ _ _).trans
    (uploadAccess_put (s := uploadAt (.put size tag i b) .command rest m es u) nofun hput)⟩

theorem step_ack (size tag : Word) :
    ∃ es', step (uploadAt (.byte size tag size.toNat) .command (.command :: rest) m es u) =
      .next (finish .ok (uploadAcked tag m es' { u with agenda := rest })) := by
  obtain ⟨es', hack⟩ := uploadAck_eq tag (uploadAt (.byte size tag size.toNat) .command rest m es u)
  exact ⟨es', (h.turn _ _ _ _ _).trans
    ((uploadAccess_ack (s := uploadAt (.byte size tag size.toNat) .command rest m es u) nofun le_rfl).trans
      (congrArg Host.Outcome.next hack))⟩

/-- R102: `n` bytes of the frame, two turns each. -/
theorem run_payload (tag : Word) (hsize : uploadSizeBad u size = false) (n : Nat) (m : Memory) (es : List Event)
    (hi : i + n ≤ size.toNat) :
    ∃ es', runSteps (2 * n) (uploadAt (.byte size tag i) .command (List.replicate (2 * n) .command ++ rest) m es u) =
      .next (uploadAt (.byte size tag (i + n)) .command rest
        (Memory.copy u.window (byteAddr u.map.buf i) m (byteAddr u.ops.ulDst i) n) es' u) := by
  induction n generalizing i m es with
  | zero => exact ⟨es, rfl⟩
  | succ n ih =>
    have hin : i < size.toNat := by omega
    obtain ⟨e1, hread⟩ := h.step_read (rest := .command :: (List.replicate (2 * n) .command ++ rest)) (m := m) (es := es)
      tag hsize hin
    obtain ⟨e2, hput⟩ := h.step_put (rest := List.replicate (2 * n) .command ++ rest) (m := m) (es := e1 :: es)
      tag (Memory.read u.window (byteAddr u.map.buf i)) hsize hin
    obtain ⟨es', hrest⟩ := ih (i := i + 1) (Memory.write m (byteAddr u.ops.ulDst i) _) (e2 :: e1 :: es) (by omega)
    refine ⟨es', (runSteps_succ hread).trans ((runSteps_succ hput).trans (hrest.trans ?_))⟩
    rw [Memory.copy_succ, Nat.add_right_comm i 1 n]
    rfl

/-- R102: the whole frame, and the acknowledgment that completes UL_STEP2. -/
theorem run_frame (tag : Word) (hsize : uploadSizeBad u size = false) (m : Memory) (es : List Event) :
    ∃ es', runSteps (2 * size.toNat + 1)
        (uploadAt (.byte size tag 0) .command (List.replicate (2 * size.toNat + 1) .command ++ rest) m es u) =
      .next (finish .ok
        (uploadAcked tag (Memory.copy u.window u.map.buf.toNat m u.ops.ulDst.toNat size.toNat) es'
          { u with agenda := rest })) := by
  obtain ⟨es1, hpayload⟩ :=
    h.run_payload (i := 0) (rest := .command :: rest) tag hsize size.toNat m es (Nat.zero_add _).le
  rw [Nat.zero_add] at hpayload
  obtain ⟨es', hack⟩ := h.step_ack (rest := rest) (es := es1) size tag
  rw [List.replicate_add, List.append_assoc]
  exact ⟨es', (runSteps_add hpayload).trans (runSteps_succ hack)⟩

/-- R102: READ, its three fields first. -/
theorem run (hl : l ≠ .continuation) (hsize : uploadSizeBad u (windowFields u).size = false) (m : Memory)
    (es : List Event) :
    ∃ es', runSteps (2 * (windowFields u).size.toNat + 4)
        (uploadAt .size l (List.replicate (2 * (windowFields u).size.toNat + 4) .command ++ rest) m es u) =
      .next (finish .ok
        (uploadAcked (windowFields u).tag
          (Memory.copy u.window u.map.buf.toNat m u.ops.ulDst.toNat (windowFields u).size.toNat) es'
          { u with ulLast := windowFields u, agenda := rest })) := by
  have hread : Uploading { u with ulLast := windowFields u } := ⟨h.busy, h.command, h.map⟩
  obtain ⟨e1, hsz⟩ := h.step_size (m := m) (es := es) hl
  obtain ⟨e2, htag⟩ := h.step_tag (m := m) (es := e1 :: es) (windowFields u).size
  obtain ⟨e3, hcount⟩ := h.step_count (m := m) (es := e2 :: e1 :: es) (windowFields u).tag hsize
  obtain ⟨es', hframe⟩ := hread.run_frame (rest := rest) (windowFields u).tag hsize m (e3 :: e2 :: e1 :: es)
  exact ⟨es', (runSteps_succ hsz).trans ((runSteps_succ htag).trans ((runSteps_succ hcount).trans hframe))⟩

end Uploading

/-- An address that is none of a range's bytes. -/
theorem outside_of_ne_byteAddr {base : Word} {n a : Nat} (h : ∀ i, i < n → a ≠ byteAddr base i) :
    Outside a base.toNat n := by
  by_contra hin
  exact h (a - base.toNat) (by omega) (by rw [byteAddr_eq]; omega)

/-- Settles O54: the accesses of READ in a row, in a state whose map fits (R9) and whose size field passes. -/
theorem uploadFrameIsCopied : Obligations.UploadFrameIsCopied := by
  rintro s rest _ _ _ h hb hc hp hl rfl rfl rfl hcap hlen htop hag
  obtain ⟨hd, -⟩ := (invariant_iff s).1 h
  obtain ⟨-, hm, -⟩ := hd.memories
  have hup : Uploading s := ⟨hb, hc, hd.map_fits⟩
  obtain ⟨es, hrun⟩ := hup.run (rest := rest) (l := .free) nofun (uploadSizeBad_eq_false.2 ⟨hcap, hlen, htop⟩)
    s.hostMem s.history
  have hstart : s = uploadAt .size .free
      (List.replicate (2 * (windowFields s).size.toNat + 4) .command ++ rest) s.hostMem s.history s :=
    eq_withUnits hp rfl hl hag
  rw [← hstart] at hrun
  refine ⟨_, hrun, fun i hi => ?_, fun a ha => ?_, ?_⟩
  · exact Memory.read_copy_inside _ _ _ hm hi
  · exact Memory.read_copy_outside _ _ _ _ (outside_of_ne_byteAddr ha)
  · rw [← show opcodeField s.cmdw = 0x21#8 from opcodeField_of_validCommand hc, hl]
    rfl

end Sys2Proof.Machine

/-! PROOFS. The mailboxes (43_notification.md R107 to R109), the peer's ports (R104 to R106) with the host's store to
its own memory (00_scope.md R7), and the Notification unit's step (R110 to R112). -/

namespace Sys2Proof.Machine

variable {s : State}

/-! ### The mailboxes -/

/-- Settles O32: TakeIn and PeekIn are their records; Send's history has a code the peer had not read before its own. -/
theorem mailboxPrimitives : Obligations.MailboxPrimitives := by
  intro s c
  refine ⟨rfl, rfl, ?_⟩
  rw [send_eq, send_history]

/-- Settles O33: the history of a notification has the code it replaces before its own. -/
theorem peerNotifyFillsTheMailbox : Obligations.PeerNotifyFillsTheMailbox := by
  intro s c rest hag
  rw [step_turn hag, turnStep, peerNotify_eq, peerNotify_history]

/-- Settles O34: the turn is `peerReadOut`, which is its record. -/
theorem peerReadOutLowersTheLine : Obligations.PeerReadOutLowersTheLine := by
  intro s rest hag
  rw [step_turn hag]
  rfl

/-! ### Accesses of the peer and of the host -/

/-- 20_memory.md R58: a store leaves a canonical memory canonical, its own bytes in place and every other byte as it
was. -/
theorem Memory.writeBytes_exactly {m : Memory} (a : Nat) (bs : List Byte) (hm : Memory.wf m = true) :
    Memory.wf (Memory.writeBytes m a bs) = true ∧
      Memory.readBytes (Memory.writeBytes m a bs) a bs.length = bs ∧
      ∀ b, Outside b a bs.length → Memory.read (Memory.writeBytes m a bs) b = Memory.read m b :=
  ⟨Memory.wf_writeBytes a bs hm, Memory.readBytes_writeBytes a bs hm,
    fun _ hb => Memory.read_writeBytes_outside m a bs hb⟩

section
variable {off width addr : Nat} {bytes : List Byte} {rest : List Turn}

/-- R106: inside the window there are bytes to write. -/
theorem step_peerStore_inside (hag : s.agenda = .peerStore off bytes :: rest)
    (h : off + bytes.length ≤ s.cfg.shmSize) :
    step s = .next (record (.memWr .peer off bytes.length (leValue bytes))
      { s with agenda := rest, window := Memory.writeBytes s.window off bytes }) :=
  (step_turn hag).trans (if_pos h)

theorem step_peerStore_pastWindow (hag : s.agenda = .peerStore off bytes :: rest)
    (h : s.cfg.shmSize < off + bytes.length) : step s = .fault (.peerRange off bytes.length) :=
  (step_turn hag).trans (if_neg (Nat.not_le.2 h))

/-- R106: inside the window there are bytes to read. -/
theorem step_peerLoad_inside (hag : s.agenda = .peerLoad off width :: rest) (h : off + width ≤ s.cfg.shmSize) :
    step s = .next (record (.memRd .peer off width (leValue (Memory.readBytes s.window off width)))
      { s with agenda := rest }) :=
  (step_turn hag).trans (if_pos h)

theorem step_peerLoad_pastWindow (hag : s.agenda = .peerLoad off width :: rest) (h : s.cfg.shmSize < off + width) :
    step s = .fault (.peerRange off width) :=
  (step_turn hag).trans (if_neg (Nat.not_le.2 h))

/-- 00_scope.md R7: the host writes its own memory, below 2^HOST_ADDR_W. -/
theorem step_hostStore_inside (hag : s.agenda = .hostStore addr bytes :: rest)
    (h : addr + bytes.length ≤ 2 ^ s.cfg.hostAddrW) :
    step s = .next { s with
      agenda := rest
      hostMem := Memory.writeBytes s.hostMem addr bytes
      history := (storeEvents addr bytes).reverse ++ s.history } :=
  (step_turn hag).trans (if_pos h)

theorem step_hostStore_pastMemory (hag : s.agenda = .hostStore addr bytes :: rest)
    (h : 2 ^ s.cfg.hostAddrW < addr + bytes.length) : step s = .fault (.ownerRange addr bytes.length) :=
  (step_turn hag).trans (if_neg (Nat.not_le.2 h))

end

/-- Settles O35: the window after the store is the old one with the bytes written. -/
theorem peerStoresExactlyItsBytes : Obligations.PeerStoresExactlyItsBytes := by
  intro s off bytes rest hag hw
  exact ⟨fun hin => ⟨_, step_peerStore_inside hag hin, rfl, Memory.writeBytes_exactly off bytes hw⟩,
    step_peerStore_pastWindow hag⟩

/-! ### The number a peer read records -/

/-- 20_memory.md R57: a little-endian number has the bytes as its digits in base 256, lowest first. -/
theorem leValue_eq_ofDigits (bs : List Byte) : leValue bs = Nat.ofDigits 256 (bs.map BitVec.toNat) := by
  induction bs with
  | nil => rfl
  | cons b bs ih => rw [leValue, ih, List.map_cons, Nat.ofDigits_cons]

theorem mem_map_toNat_lt {bs : List Byte} {d : Nat} (h : d ∈ bs.map BitVec.toNat) : d < 256 := by
  obtain ⟨b, -, rfl⟩ := List.mem_map.1 h
  exact b.isLt

theorem leValue_lt (bs : List Byte) : leValue bs < 256 ^ bs.length := by
  rw [leValue_eq_ofDigits, ← List.length_map (f := BitVec.toNat) (as := bs)]
  exact Nat.ofDigits_lt_base_pow_length (by decide) fun _ => mem_map_toNat_lt

/-- Digit `i` of a little-endian number is its byte `i`. -/
theorem leValue_digit (bs : List Byte) {i : Nat} (hi : i < bs.length) :
    leValue bs / 256 ^ i % 256 = bs[i].toNat := by
  have hdrop : (bs.map BitVec.toNat).drop i = bs[i].toNat :: (bs.map BitVec.toNat).drop (i + 1) := by
    rw [List.drop_eq_getElem_cons (by simpa using hi), List.getElem_map]
  rw [leValue_eq_ofDigits, Nat.ofDigits_div_pow_eq_ofDigits_drop i (by decide) _ fun _ => mem_map_toNat_lt, hdrop,
    Nat.ofDigits_cons, Nat.add_mul_mod_self_left, Nat.mod_eq_of_lt bs[i].isLt]

theorem leValue_readBytes_lt (m : Memory) (a n : Nat) : leValue (Memory.readBytes m a n) < 256 ^ n := by
  simpa only [Memory.readBytes_length] using leValue_lt (Memory.readBytes m a n)

theorem leValue_readBytes_digit (m : Memory) (a : Nat) {n i : Nat} (hi : i < n) :
    leValue (Memory.readBytes m a n) / 256 ^ i % 256 = (Memory.read m (a + i)).toNat := by
  rw [leValue_digit _ (by simpa using hi), Memory.getElem_readBytes]

/-- Settles O60: the value a peer read records is the number of the window's bytes; the host's memory after its store is
the old one with the bytes written. -/
theorem peerReadsAndHostStores : Obligations.PeerReadsAndHostStores := by
  constructor
  · intro s off width rest hag
    exact ⟨fun hin => ⟨_, step_peerLoad_inside hag hin, leValue_readBytes_lt _ _ _,
      fun _ => leValue_readBytes_digit _ _⟩, step_peerLoad_pastWindow hag⟩
  · intro s addr bytes rest hag hm
    exact ⟨fun hin => ⟨_, step_hostStore_inside hag hin, rfl, Memory.writeBytes_exactly addr bytes hm⟩,
      step_hostStore_pastMemory hag⟩

/-! ### The Notification unit -/

theorem step_notification {rest : List Turn} (hag : s.agenda = .notification :: rest) :
    step s = .next (notificationStep { s with agenda := rest }) :=
  step_turn hag

/-- R110: with NOTIFY_EN = 0 or PEND = 0 the unit is not enabled. -/
theorem notificationStep_disabled (h : s.notifyEn = false ∨ s.pend = false) : notificationStep s = s := by
  rcases notificationStep_cases s with he | ⟨hen, hpend, -⟩
  · exact he
  · simp [hen, hpend] at h

/-- R110: enabled, it takes the code, sets NOTIFY_RX and dispatches. -/
theorem notificationStep_enabled (hen : s.notifyEn = true) (hpend : s.pend = true) :
    notificationStep s = dispatchCode s.mbxIn (raiseIrq irqNotifyRx (takeIn s).2) :=
  if_pos (by rw [notificationEnabled, hen, hpend, Bool.and_self])

theorem dispatchCode_dlReady {v : Code} (hv : v = s.cfg.codeDlReady) :
    dispatchCode v s = setLatch .copyStarted s :=
  if_pos hv

/-- R111, where R9 (e) keeps the code apart from the one asked for before it. -/
theorem dispatchCode_frameAck {v : Code} (hv : v = s.cfg.codeFrameAck) :
    dispatchCode v s = { s with contPending := true } := by
  obtain ⟨hrf, -⟩ := s.cfg.codes
  rw [dispatchCode, if_neg (hv ▸ hrf.symm), if_pos hv]

/-- R111, where R9 (e) keeps the code apart from the two asked for before it. -/
theorem dispatchCode_booting {v : Code} (hv : v = s.cfg.codeBooting) :
    dispatchCode v s = setLatch .bootComplete s := by
  obtain ⟨-, hrb, hfb, -⟩ := s.cfg.codes
  rw [dispatchCode, if_neg (hv ▸ hrb.symm), if_neg (hv ▸ hfb.symm), if_pos hv]

theorem dispatchCode_other {v : Code} (hr : v ≠ s.cfg.codeDlReady) (hf : v ≠ s.cfg.codeFrameAck)
    (hb : v ≠ s.cfg.codeBooting) : dispatchCode v s = unrecognized v s := by
  rw [dispatchCode, if_neg hr, if_neg hf, if_neg hb]

/-- Settles O36: the step on both sides of R110's condition, and the four dispatches of R111. -/
theorem notificationDispatch : Obligations.NotificationDispatch := by
  constructor
  · intro s rest hag hoff
    exact (step_notification hag).trans (congrArg _ (notificationStep_disabled hoff))
  · intro s rest hag hen hpend
    have htaken := (step_notification hag).trans (congrArg _ (notificationStep_enabled hen hpend))
    exact ⟨fun hv => htaken.trans (congrArg _ (dispatchCode_dlReady hv)),
      fun hv => htaken.trans (congrArg _ (dispatchCode_frameAck hv)),
      fun hv => htaken.trans (congrArg _ (dispatchCode_booting hv)),
      fun hr hf hb => htaken.trans (congrArg _ (dispatchCode_other hr hf hb))⟩

/-- Settles O37: the last dispatch of `notificationDispatch`, and 0x9999 is none of the codes by R9 (e). -/
theorem unrecognizedCodeIsDropped : Obligations.UnrecognizedCodeIsDropped := by
  constructor
  · intro s rest hag hen hpend
    obtain ⟨-, -, -, hother⟩ := notificationDispatch.2 s rest hag hen hpend
    exact hother
  · intro c
    obtain ⟨-, -, -, hdropped⟩ := c.codes
    exact hdropped

end Sys2Proof.Machine

/-! PROOFS. The boot handshake (44_boot_handshake.md): BOOT_START's Send and the ticks of its wait (R114), and CP_START
(R115). -/

namespace Sys2Proof.Machine

variable {s : State}

/-! ### BOOT_START -/

/-- R114: BOOT_START outside its wait is the access that sends the code. -/
theorem exec_bootStart_start (hp : s.phase = .start) :
    exec .bootStart s =
      commandAccess s fun s =>
        .next (startPoll s.cfg.nBoot .wait
          (releaseCommand (send s.cfg.codeStartExec { s with bootState := .waitBooting }))) := by
  change execBootStart s = _
  simp only [execBootStart, hp]

/-- R114: BOOT_START in its wait is a poll tick on BOOT_COMPLETE. -/
theorem exec_bootStart_wait (hp : s.phase = .wait) :
    exec .bootStart s =
      pollTick s.bootComplete
        (fun s => .next (finish .ok { consumeLatch .bootComplete s with bootState := .booted }))
        (fun s => fail .timeout { s with bootState := .timeoutFailed }) s := by
  change execBootStart s = _
  simp only [execBootStart, hp]

/-- 43_notification.md R109: a Send does not read BOOT_STATE. -/
theorem send_withBootState (c : Code) (b : BootState) (s : State) :
    send c { s with bootState := b } = { send c s with bootState := b } := by
  cases h : s.peerIrq <;> simp [send, record, h]

/-- R114: the Send gives the port back and enters the wait with the whole budget. -/
theorem exec_bootStart_send (hp : s.phase = .start) (hl : s.lock ≠ .continuation) :
    exec .bootStart s = .next
      { send s.cfg.codeStartExec s with
        bootState := .waitBooting
        pollLeft := s.cfg.nBoot
        phase := .wait
        lock := .free } := by
  rw [exec_bootStart_start hp, commandAccess_granted hl, send_withBootState, send_withLock]
  rfl

/-- Settles O56: the Send, and the three ends of the wait's tick. -/
theorem bootStartPhases : Obligations.BootStartPhases := by
  intro s
  refine ⟨exec_bootStart_send, fun hp hc => ?booted, fun hp hc hl => ?miss, fun hp hc hl => ?out⟩ <;>
    rw [exec_bootStart_wait hp]
  case booted => exact pollTick_hit _ _ hc
  case miss => exact pollTick_miss _ _ hc hl
  case out => exact pollTick_out _ _ hc hl

/-! ### CP_START -/

/-- Settles O57: the access is granted, and the end gives back the port that the Send held. -/
theorem cpStartSendsInitEnd : Obligations.CpStartSendsInitEnd := by
  intro s hl
  change execCpStart s = _
  rw [execCpStart, commandAccess_granted hl, send_withLock]
  rfl

end Sys2Proof.Machine

/-! PROOFS. The crash diagnostic copy (45_diagnostic.md R116): the check of CRASH_LOG, each access of its copy, and the
whole copy, which completes with the write of its last byte. -/

namespace Sys2Proof.Machine

variable {s u v : State} {i : Nat} {b : Byte} {m : Memory} {es : List Event} {l : PortLock} {rest : List Turn}

/-! ### One step of CRASH_LOG -/

theorem exec_crashLog_refused {code : ResultCode} (hp : s.phase = .start) (hc : crashCheck s = some code) :
    exec .crashLog s = .next (finish code s) := by
  change execCrashLog s = _
  simp only [execCrashLog, hp, hc, fail]

theorem exec_crashLog_setup (hp : s.phase = .start) (hc : crashCheck s = none) :
    exec .crashLog s = .next { s with phase := .crash (.byte 0) } := by
  change execCrashLog s = _
  simp only [execCrashLog, hp, hc]

theorem exec_crashLog_copy {p : CrashPos} (hp : s.phase = .crash p) : exec .crashLog s = crashCopy p s := by
  change execCrashLog s = _
  simp only [execCrashLog, hp]

/-- R116: CHECK. -/
theorem crashCheck_eq (s : State) :
    crashCheck s = if 2 ^ s.cfg.hostAddrW < s.ops.crashDst.toNat + s.cfg.crashLen then some .invalid else none := by
  simp only [crashCheck, passesHostTop, gt_iff_lt, decide_eq_true_eq]

theorem crashCheck_passes (htop : s.ops.crashDst.toNat + s.cfg.crashLen ≤ 2 ^ s.cfg.hostAddrW) : crashCheck s = none :=
  (crashCheck_eq s).trans (if_neg (Nat.not_lt.2 htop))

/-- R116: past the crash buffer's end there is no access left. -/
theorem crashCopy_end (hi : s.cfg.crashLen ≤ i) : crashCopy (.byte i) s = .next (finish .ok s) :=
  if_neg (Nat.not_lt.2 hi)

theorem crashCopy_read (hl : s.lock ≠ .continuation) (hi : i < s.cfg.crashLen)
    (h : memRead1 (byteAddr s.cfg.crashRxOff i) { s with lock := .command } = .ok (b, v)) :
    crashCopy (.byte i) s = .next { v with phase := .crash (.put i b) } := by
  simp only [crashCopy, commandAccess_granted hl, if_pos hi, h, onOk_ok]

/-- R116: a byte's write, which goes on to the next byte or, after the last one, completes. -/
theorem crashCopy_put (hl : s.lock ≠ .continuation)
    (h : hostWrite1 (byteAddr s.ops.crashDst i) b { s with lock := .command } = .ok v) :
    crashCopy (.put i b) s =
      if i + 1 < v.cfg.crashLen then .next { v with phase := .crash (.byte (i + 1)) } else .next (finish .ok v) := by
  simp only [crashCopy, commandAccess_granted hl, h, onOk_ok]

/-- Settles O58: the check's two ends, the copy of no bytes, and the write of the last byte. -/
theorem crashLogPhases : Obligations.CrashLogPhases := by
  intro s
  refine ⟨fun hp htop => ?refused, fun hp htop => ?setup, fun hp hlen => ?empty, fun i b hp hi hl htop hm => ?last⟩
  case refused => exact exec_crashLog_refused hp ((crashCheck_eq s).trans (if_pos htop))
  case setup => exact exec_crashLog_setup hp (crashCheck_passes htop)
  case empty => exact (exec_crashLog_copy hp).trans (crashCopy_end hlen.le)
  case last =>
    have hput := crashCopy_put (b := b) hl (hostWrite1_ok.2 ⟨byteAddr_lt_host htop (Nat.lt_of_succ_le hi.le), rfl⟩)
    exact ⟨_, (exec_crashLog_copy hp).trans (hput.trans (if_neg hi.not_lt)), Memory.read_write_same _ _ hm,
      fun a ha => Memory.read_write_other _ _ ha, rfl⟩

/-! ### The turns of COPY -/

/-- R116: an accepted CRASH_LOG whose CHECK passed, so that the accesses of its copy exist (R9 (d)). -/
structure CrashCopying (u : State) : Prop where
  busy : u.busy = true
  command : currentCommand u = some .crashLog
  destination : u.ops.crashDst.toNat + u.cfg.crashLen ≤ 2 ^ u.cfg.hostAddrW

/-- `u` with CRASH_LOG at an access of its copy, host memory and the history as they are then. -/
def crashAt (p : CrashPos) (l : PortLock) (ag : List Turn) (m : Memory) (es : List Event) (u : State) : State :=
  (u.withUnits (.crash p) u.cont l ag).withHostMem m es

/-- R9 (d): a byte of the crash buffer is inside the window. -/
theorem crashByte_lt_shmSize {c : Config} (hi : i < c.crashLen) : byteAddr c.crashRxOff i < c.shmSize := by
  have hin := c.crash
  rw [byteAddr_eq]
  omega

namespace CrashCopying

variable (h : CrashCopying u)
include h

/-- A scheduled turn of the Command unit is COPY's. -/
theorem turn (p : CrashPos) (l : PortLock) (rest : List Turn) (m : Memory) (es : List Event) :
    step (crashAt p l (.command :: rest) m es u) = crashCopy p (crashAt p l rest m es u) :=
  (step_exec (s := crashAt p l (.command :: rest) m es u) rfl h.busy h.command (by simp [crashAt])).trans
    (exec_crashLog_copy rfl)

theorem step_read (hl : l ≠ .continuation) (hi : i < u.cfg.crashLen) :
    ∃ e, step (crashAt (.byte i) l (.command :: rest) m es u) =
      .next (crashAt (.put i (Memory.read u.window (byteAddr u.cfg.crashRxOff i))) .command rest m (e :: es) u) := by
  obtain ⟨e, hread⟩ := memRead1_withHostMem (u := u.withUnits (.crash (.byte i)) u.cont .command rest) (m := m)
    (es := es) (crashByte_lt_shmSize hi)
  exact ⟨e, (h.turn _ _ _ _ _).trans (crashCopy_read (s := crashAt (.byte i) l rest m es u) hl hi hread)⟩

/-- R116: a byte's write with more bytes to come. -/
theorem step_put (b : Byte) (hi : i + 1 < u.cfg.crashLen) :
    ∃ e, step (crashAt (.put i b) .command (.command :: rest) m es u) =
      .next (crashAt (.byte (i + 1)) .command rest (Memory.write m (byteAddr u.ops.crashDst i) b) (e :: es) u) := by
  obtain ⟨e, hput⟩ := hostWrite1_withHostMem (u := u.withUnits (.crash (.put i b)) u.cont .command rest) (m := m)
    (es := es) b (byteAddr_lt_host h.destination (Nat.lt_of_succ_lt hi))
  exact ⟨e, (h.turn _ _ _ _ _).trans
    ((crashCopy_put (s := crashAt (.put i b) .command rest m es u) nofun hput).trans (if_pos hi))⟩

/-- R116: the write of the last byte, which completes CRASH_LOG and gives the port back. -/
theorem step_last (b : Byte) (hi : i + 1 = u.cfg.crashLen) :
    ∃ es', step (crashAt (.put i b) .command (.command :: rest) m es u) =
      .next (finish .ok
        { u with
          lock := .free
          agenda := rest
          hostMem := Memory.write m (byteAddr u.ops.crashDst i) b
          history := es' }) := by
  obtain ⟨e, hput⟩ := hostWrite1_withHostMem (u := u.withUnits (.crash (.put i b)) u.cont .command rest) (m := m)
    (es := es) b (byteAddr_lt_host h.destination (Nat.lt_of_succ_le hi.le))
  exact ⟨e :: es, (h.turn _ _ _ _ _).trans
    ((crashCopy_put (s := crashAt (.put i b) .command rest m es u) nofun hput).trans (if_neg hi.not_lt))⟩

/-- R116: the last `n + 1` bytes of the crash buffer, two turns each. -/
theorem run (n : Nat) (m : Memory) (es : List Event) (hl : l ≠ .continuation) (hi : i + (n + 1) = u.cfg.crashLen) :
    ∃ es', runSteps (2 * (n + 1)) (crashAt (.byte i) l (List.replicate (2 * (n + 1)) .command ++ rest) m es u) =
      .next (finish .ok
        { u with
          lock := .free
          agenda := rest
          hostMem := Memory.copy u.window (byteAddr u.cfg.crashRxOff i) m (byteAddr u.ops.crashDst i) (n + 1)
          history := es' }) := by
  induction n generalizing i m es l with
  | zero =>
    obtain ⟨e, hread⟩ := h.step_read (rest := .command :: rest) (m := m) (es := es) hl (Nat.lt_of_succ_le hi.le)
    obtain ⟨es', hlast⟩ := h.step_last (rest := rest) (m := m) (es := e :: es) _ hi
    exact ⟨es', (runSteps_succ hread).trans (runSteps_succ hlast)⟩
  | succ n ih =>
    obtain ⟨e1, hread⟩ := h.step_read (i := i) (rest := .command :: (List.replicate (2 * (n + 1)) .command ++ rest))
      (m := m) (es := es) hl (by omega)
    obtain ⟨e2, hput⟩ := h.step_put (i := i) (rest := List.replicate (2 * (n + 1)) .command ++ rest) (m := m)
      (es := e1 :: es) (Memory.read u.window (byteAddr u.cfg.crashRxOff i)) (by omega)
    obtain ⟨es', hrest⟩ := ih (i := i + 1) (Memory.write m (byteAddr u.ops.crashDst i) _) (e2 :: e1 :: es)
      (l := .command) nofun (by omega)
    exact ⟨es', (runSteps_succ hread).trans ((runSteps_succ hput).trans hrest)⟩

end CrashCopying

/-- Settles O59: the check, which passes, then the accesses of COPY in a row. -/
theorem crashBufferIsCopied : Obligations.CrashBufferIsCopied := by
  intro s rest h hb hc hp hl hlen htop hag
  obtain ⟨hd, -⟩ := (invariant_iff s).1 h
  obtain ⟨-, hm, -⟩ := hd.memories
  have hcopying : CrashCopying s := ⟨hb, hc, htop⟩
  have hstart : step s = .next (crashAt (.byte 0) s.lock
      (List.replicate (2 * s.cfg.crashLen) .command ++ rest) s.hostMem s.history s) := by
    rw [step_exec hag hb hc (by simp [hp])]
    exact exec_crashLog_setup (s := { s with agenda := List.replicate (2 * s.cfg.crashLen) .command ++ rest }) hp
      (crashCheck_passes htop)
  obtain ⟨n, hn⟩ := Nat.exists_eq_add_of_le' hlen
  obtain ⟨es, hrun⟩ := hcopying.run (i := 0) (rest := rest) (l := s.lock) n s.hostMem s.history (by simp [hl])
    (by omega)
  rw [← hn] at hrun
  refine ⟨_, (runSteps_succ hstart).trans hrun, fun i hi => ?_, fun a ha => ?_, ?_⟩
  · exact Memory.read_copy_inside _ _ _ hm hi
  · exact Memory.read_copy_outside _ _ _ _ (outside_of_ne_byteAddr ha)
  · rw [← show opcodeField s.cmdw = 0x40#8 from opcodeField_of_validCommand hc, hl]
    rfl

end Sys2Proof.Machine

/-! PROOFS. How a step leaves BUSY, the accepted word, RESULT and the event history (60_exceptions.md R119, R120, R127): it
does work that completes nothing and makes at most one access of the engine (`Works`), or such work with an acceptance or a
`finish` after it (`Advances`). -/

namespace Sys2Proof.Machine

variable {s t u v : State} {i : Instr} {n : Nat} {e : Event}

/-! ### Work that accepts and completes nothing -/

/-- BUSY, the accepted word and RESULT, which acceptance and `finish` write. -/
def State.completion (s : State) : Bool × Word × ResultCode × BitVec 8 := (s.busy, s.cmdw, s.resultCode, s.lastOp)

theorem completion_eq_iff :
    t.completion = s.completion ↔
      t.busy = s.busy ∧ t.cmdw = s.cmdw ∧ t.resultCode = s.resultCode ∧ t.lastOp = s.lastOp := by
  simp only [State.completion, Prod.mk.injEq]

/-- `h'` is `h` with events put in front, of which at most `n` are accesses of the engine and none is an acceptance or a
completion. -/
def Grows (n : Nat) (h h' : List Event) : Prop :=
  ∃ es, h' = es ++ h ∧ es.countP engineAccess ≤ n ∧ es.countP isCmdStart = 0 ∧ es.countP isCmdDone = 0

/-- `u` is `s` after work that accepts and completes no command and makes at most `n` accesses of the engine. -/
def Works (n : Nat) (s u : State) : Prop := u.completion = s.completion ∧ Grows n s.history u.history

theorem works_of_eq (hc : u.completion = s.completion) (hh : u.history = s.history) : Works n s u :=
  ⟨hc, [], hh, Nat.zero_le n, rfl, rfl⟩

/-- The work goes on with an access of the engine. -/
theorem Works.access (h : Works n s u) (hc : v.completion = u.completion) (hh : v.history = e :: u.history)
    (hs : isCmdStart e = false) (hd : isCmdDone e = false) : Works (n + 1) s v := by
  obtain ⟨hcu, es, hes, ha, hstart, hdone⟩ := h
  refine ⟨hc.trans hcu, e :: es, by rw [hh, hes, List.cons_append], ?_, ?_, ?_⟩
  · rw [List.countP_cons]
    split <;> omega
  · rwa [List.countP_cons_of_neg (by simp [hs])]
  · rwa [List.countP_cons_of_neg (by simp [hd])]

/-- The work goes on with an event that is no access of the engine. -/
theorem Works.note (h : Works n s u) (hc : v.completion = u.completion) (hh : v.history = e :: u.history)
    (he : engineAccess e = false) (hs : isCmdStart e = false) (hd : isCmdDone e = false) : Works n s v := by
  obtain ⟨hcu, es, hes, ha, hstart, hdone⟩ := h
  refine ⟨hc.trans hcu, e :: es, by rw [hh, hes, List.cons_append], ?_, ?_, ?_⟩
  · rwa [List.countP_cons_of_neg (by simp [he])]
  · rwa [List.countP_cons_of_neg (by simp [hs])]
  · rwa [List.countP_cons_of_neg (by simp [hd])]

theorem Works.refl (s : State) : Works n s s := works_of_eq rfl rfl

/-! ### The shared operations -/

theorem memRead1_works {a : Nat} {b : Byte} (hu : memRead1 a s = .ok (b, u)) : Works 1 s u := by
  obtain ⟨-, e⟩ := memRead1_ok.1 hu
  cases e
  exact (Works.refl s).access rfl rfl rfl rfl

theorem memRead4_works {a : Nat} {v : Word} (hu : memRead4 a s = .ok (v, u)) : Works 1 s u := by
  obtain ⟨-, -, e⟩ := memRead4_ok.1 hu
  cases e
  exact (Works.refl s).access rfl rfl rfl rfl

theorem hostRead1_works {a : Nat} {b : Byte} (hu : hostRead1 a s = .ok (b, u)) : Works 1 s u := by
  obtain ⟨-, e⟩ := hostRead1_ok.1 hu
  cases e
  exact (Works.refl s).access rfl rfl rfl rfl

theorem memWrite1_works {a : Nat} {b : Byte} (hu : memWrite1 a b s = .ok u) : Works 1 s u := by
  obtain ⟨-, rfl⟩ := memWrite1_ok.1 hu
  exact (Works.refl s).access rfl rfl rfl rfl

theorem memWrite4_works {a : Nat} {v : Word} (hu : memWrite4 a v s = .ok u) : Works 1 s u := by
  obtain ⟨-, -, rfl⟩ := memWrite4_ok.1 hu
  exact (Works.refl s).access rfl rfl rfl rfl

theorem hostWrite1_works {a : Nat} {b : Byte} (hu : hostWrite1 a b s = .ok u) : Works 1 s u := by
  obtain ⟨-, rfl⟩ := hostWrite1_ok.1 hu
  exact (Works.refl s).access rfl rfl rfl rfl

/-- 43_notification.md R109: a code that overwrites another notes that first. -/
theorem send_works (c : Code) (s : State) : Works 1 s (send c s) := by
  have overwritten : Works 0 s (if s.peerIrq then record (.outOverwritten s.mbxOut) s else s) := by
    split
    · exact (Works.refl s).note rfl rfl rfl rfl rfl
    · exact .refl s
  exact overwritten.access rfl rfl rfl rfl

/-- 41_download.md R88: a position of FrameTransfer is one access. -/
theorem frameAccess_works {p : FramePos} {q : Option FramePos} (hu : frameAccess p s = .ok (q, u)) : Works 1 s u := by
  rcases frameAccess_cases hu with
    ⟨j, -, -, -, e⟩ | ⟨j, -, -, e⟩ | ⟨j, b, -, -, e⟩ | ⟨-, e⟩ | ⟨-, e⟩ | ⟨-, e⟩ <;> cases e
  case inr.inr.inr.inr.inr => exact send_works _ _
  all_goals exact (Works.refl s).access rfl rfl rfl rfl

theorem takeIn_works (s : State) : Works 1 s (takeIn s).2 := (Works.refl s).access rfl rfl rfl rfl

theorem peekIn_works (s : State) : Works 1 s (peekIn s).2 := (Works.refl s).access rfl rfl rfl rfl

theorem Works.setLatch (h : Works n s u) (l : Latch) : Works n s (setLatch l u) :=
  h.note (by cases l <;> rfl) (setLatch_history l u) rfl rfl rfl

theorem Works.consumeLatch (h : Works n s u) (l : Latch) : Works n s (consumeLatch l u) :=
  h.note (by cases l <;> rfl) (consumeLatch_history l u) rfl rfl rfl

theorem sizeCheck_works (s : State) : Works n s (sizeCheck s) := by
  unfold sizeCheck
  split
  · exact (Works.refl s).setLatch _
  · exact .refl s

/-! ### The Command unit (R119, R120) -/

/-- A command's step works on, or completes the command after its work, with a result R120's table lists. -/
def CommandEffect (i : Instr) (s t : State) : Prop :=
  Works 1 s t ∨ ∃ code u, resultAllowed i code = true ∧ Works 1 s u ∧ t = finish code u

theorem CommandEffect.finish {code : ResultCode} (hcode : resultAllowed i code = true) (h : Works 1 s u) :
    CommandEffect i s (finish code u) :=
  .inr ⟨code, u, hcode, h, rfl⟩

theorem LoadKind.resultAllowed (k : LoadKind) {code : ResultCode}
    (h : code = .ok ∨ code = .timeout ∨ code = .invalid ∨ code = .nomem) : resultAllowed k.instr code = true := by
  rcases h with rfl | rfl | rfl | rfl <;> cases k <;> rfl

/-- 41_download.md R90: the two codes of LOAD's CHECK. -/
theorem loadCheck_some {code : ResultCode} (h : loadCheck s = some code) : code = .invalid ∨ code = .nomem := by
  unfold loadCheck at h
  split_ifs at h <;> cases h <;> simp

theorem xmitCheck_some {code : ResultCode} (h : xmitCheck s = some code) : code = .invalid := by
  unfold xmitCheck at h
  split_ifs at h <;> cases h <;> rfl

theorem crashCheck_some {code : ResultCode} (h : crashCheck s = some code) : code = .invalid := by
  unfold crashCheck at h
  split_ifs at h
  cases h
  rfl

theorem uploadAck_effect (tag : Word) (s : State) : CommandEffect .ulStep2 s (uploadAck tag s) := by
  unfold uploadAck
  split <;> exact .finish rfl (send_works s.cfg.codeUlFrameAck s)

/-- Every branch of every command does one of the two. -/
theorem CommandMove.effect (hm : CommandMove s i t) : CommandEffect i s t := by
  cases hm
  -- No access, and the command goes on.
  case held | pollMiss | prepareStart | loadSetup | xmitSetup | ulStep1Start | ulStep1PollOut | ulStep2Start | crashSetup =>
    exact .inl (works_of_eq rfl rfl)
  -- An access, and the command goes on.
  case loadAccess hu | loadSent hu => exact .inl (frameAccess_works hu :)
  case xmitRead hu => exact .inl (hostRead1_works hu :)
  case xmitSize hu => exact .inl (memWrite4_works hu :)
  case xmitPut hu => exact .inl (memWrite1_works hu :)
  case ulStep1Taken | ulStep2Taken => exact .inl (takeIn_works s)
  case ulStep1LastTaken => exact .inl (peekIn_works s)
  case uploadSize hu | uploadTag hu | uploadFields hu => exact .inl (memRead4_works hu :)
  case uploadRead hu | crashRead hu => exact .inl (memRead1_works hu :)
  case uploadPut hu | crashPut hu => exact .inl (hostWrite1_works hu :)
  case bootStart => exact .inl (send_works s.cfg.codeStartExec { s with lock := .command, bootState := .waitBooting })
  -- A completion with no access.
  case mapBoot | mapDl | prepareTimeout | ulStep2Refused | ulStep2Timeout | bootTimeout | crashEmpty =>
    exact .finish rfl (works_of_eq rfl rfl)
  case prepareReady => exact .finish rfl ((Works.refl s).consumeLatch .copyStarted)
  case bootReady => exact .finish rfl ((Works.refl s).consumeLatch .bootComplete)
  case loadRefused k _ _ hc => exact .finish (k.resultAllowed (.inr (.inr (loadCheck_some hc)))) (.refl s)
  case loadDone k _ _ => exact .finish (k.resultAllowed (.inl rfl)) ((sizeCheck_works s).consumeLatch .copyComplete)
  case loadTimeout k _ => exact .finish (k.resultAllowed (.inr (.inl rfl))) (works_of_eq rfl rfl)
  case xmitRefused hc => exact .finish (xmitCheck_some hc ▸ rfl) (.refl s)
  case crashRefused hc => exact .finish (crashCheck_some hc ▸ rfl) (.refl s)
  -- A completion after an access.
  case setMagic hu => exact .finish rfl (memWrite4_works hu :)
  case xmitSend => exact .finish rfl (send_works s.cfg.codeXmitSent { s with lock := .command })
  case ulStep1Mismatch | ulStep2Mismatch => exact .finish rfl (takeIn_works s)
  case ulStep1Timeout => exact .finish rfl (peekIn_works s)
  case ulStep1Success => exact .finish rfl (send_works s.cfg.codeUlBegin { s with lock := .command })
  case uploadRefused hu => exact .finish rfl (memRead4_works hu :)
  case uploadAck tag _ _ _ => exact uploadAck_effect tag { s with lock := .command }
  case cpStart => exact .finish rfl (send_works (s.cfg.codeInitEnd ||| s.cfg.initCaps) { s with lock := .command })
  case crashLast hu => exact .finish rfl (hostWrite1_works hu :)

/-- Settles O10: a turn that ends BUSY is a move of the accepted command, and one that completes it. -/
theorem resultsAreTheTabledOnes : Obligations.ResultsAreTheTabledOnes := by
  intro s t rest i hag hb hc hs ht
  rw [step_command hag] at hs
  rcases commandStep_next hs with ⟨hidle, -⟩ | ⟨-, hnone, -⟩ | ⟨-, -, -, rfl⟩ | ⟨-, -, j, hj, hm⟩
  · exact absurd (hb.symm.trans hidle) nofun
  · exact absurd (hc.symm.trans hnone) nofun
  · exact absurd (hb.symm.trans ht) nofun
  · obtain rfl : i = j := Option.some.inj (hc.symm.trans hj)
    rcases hm.effect with ⟨hcompl, -⟩ | ⟨code, u, hcode, -, rfl⟩
    · exact absurd (hb.symm.trans ((completion_eq_iff.1 hcompl).1.symm.trans ht)) nofun
    · exact hcode

/-! ### Every agent's step -/

/-- What a step other than reset does: work, an acceptance by an idle Command unit, or work and then `finish` of the running
command. An acceptance comes with no work; its `u` is `s` but for what `Works` does not speak of, the schedule. -/
def Advances (s t : State) : Prop :=
  Works 1 s t ∨ (s.busy = false ∧ ∃ w u, Works 0 s u ∧ t = accept w u) ∨
    (s.busy = true ∧ ∃ code u, Works 1 s u ∧ t = finish code u)

theorem commandStep_advances (hs : commandStep s = .next t) : Advances s t := by
  rcases commandStep_next hs with ⟨-, rfl⟩ | ⟨hb, -, rfl⟩ | ⟨-, -, -, rfl⟩ | ⟨hb, -, i, -, hm⟩
  · exact .inl (.refl t)
  · exact .inr (.inr ⟨hb, .invalid, s, .refl s, rfl⟩)
  · exact .inl (works_of_eq rfl rfl)
  · rcases hm.effect with h | ⟨code, u, -, h, rfl⟩
    · exact .inl h
    · exact .inr (.inr ⟨hb, code, u, h, rfl⟩)

/-- 41_download.md R96: the per-frame step makes no access. -/
theorem perFrame_works (s : State) : Works n s (perFrame s) := by
  unfold perFrame
  split
  · exact .refl s
  · split <;> exact works_of_eq rfl rfl

theorem continuationStep_works (hs : continuationStep s = .next t) : Works 1 s t := by
  rcases continuationStep_next hs with rfl | ⟨-, -, -, rfl⟩ | ⟨p, q, u, -, -, hu, rfl⟩ | ⟨p, u, -, -, hu, rfl⟩
  · exact .refl t
  · exact perFrame_works { s with contPending := false }
  · exact (frameAccess_works hu :)
  · exact (frameAccess_works hu :)

theorem Works.dispatchCode (h : Works n s u) (c : Code) : Works n s (dispatchCode c u) := by
  rcases dispatchCode_cases c u with ⟨-, e⟩ | e | ⟨-, e⟩ | e <;> rw [e]
  · exact h.setLatch .copyStarted
  · exact h
  · exact h.setLatch .bootComplete
  · exact h.note rfl rfl rfl rfl rfl

theorem notificationStep_works (s : State) : Works 1 s (notificationStep s) := by
  rcases notificationStep_cases s with e | ⟨-, -, e⟩ <;> rw [e]
  · exact .refl s
  · exact Works.dispatchCode (u := raiseIrq irqNotifyRx (takeIn s).2) (takeIn_works s) s.mbxIn

/-- 43_notification.md R104: a signal that overwrites another notes that first. -/
theorem peerNotify_works (c : Code) (s : State) : Works n s (peerNotify c s) := by
  have overwritten : Works n s (if s.pend then record (.overwritten s.mbxIn) s else s) := by
    split
    · exact (Works.refl s).note rfl rfl rfl rfl rfl
    · exact .refl s
  exact overwritten.note rfl rfl rfl rfl rfl

theorem peerLoad_works {off width : Nat} (hs : peerLoad off width s = .next t) : Works n s t := by
  unfold peerLoad at hs
  split at hs <;> cases hs
  exact (Works.refl s).note rfl rfl rfl rfl rfl

theorem peerStore_works {off : Nat} {bytes : List Byte} (hs : peerStore off bytes s = .next t) : Works n s t := by
  unfold peerStore at hs
  split at hs <;> cases hs
  exact (Works.refl s).note rfl rfl rfl rfl rfl

/-- A host store records only byte writes of the host. -/
theorem countP_storeEvents {p : Event → Bool} (hp : ∀ a x, p (.hostWr .host a x) = false) (addr : Nat)
    (bytes : List Byte) : (storeEvents addr bytes).countP p = 0 := by
  induction bytes generalizing addr with
  | nil => rfl
  | cons b bs ih =>
    rw [storeEvents, List.countP_cons_of_neg (by simp [hp])]
    exact ih (addr + 1)

theorem hostStore_works {addr : Nat} {bytes : List Byte} (hs : hostStore addr bytes s = .next t) : Works n s t := by
  have noneMeets {p : Event → Bool} (hp : ∀ a x, p (.hostWr .host a x) = false) :
      (storeEvents addr bytes).reverse.countP p = 0 :=
    List.countP_reverse.trans (countP_storeEvents hp addr bytes)
  unfold hostStore at hs
  split at hs <;> cases hs
  exact ⟨rfl, _, rfl, (noneMeets fun _ _ => rfl).le.trans (Nat.zero_le n), noneMeets fun _ _ => rfl, noneMeets fun _ _ => rfl⟩

theorem writeReg_advances (v : Word) (s : State) (r : Reg) : Advances s (writeReg v s r) := by
  cases r
  case cmd =>
    simp only [writeReg, unlessBusy]
    split
    · exact .inl (works_of_eq rfl rfl)
    · next hb => exact .inr (.inl ⟨Bool.not_eq_true _ ▸ hb, v, s, .refl s, rfl⟩)
  case ctrl =>
    simp only [writeReg, unlessBusy]
    split <;> exact .inl (works_of_eq rfl rfl)
  all_goals exact .inl (works_of_eq rfl rfl)

theorem hostWrite_advances (off width : Nat) (v : Word) (s : State) : Advances s (hostWrite off width v s) := by
  unfold hostWrite
  split
  · split
    · exact writeReg_advances v s _
    · exact .inl (.refl s)
  · exact .inl (.refl s)

theorem turnStep_advances {a : Turn} (ha : a ≠ .reset) (hs : turnStep a s = .next t) : Advances s t := by
  cases a with
  | hostRead off width =>
    cases hs
    exact .inl (works_of_eq rfl rfl)
  | hostWrite off width v =>
    cases hs
    exact hostWrite_advances off width v s
  | hostStore addr bytes => exact .inl (hostStore_works hs)
  | peerNotify c =>
    cases hs
    exact .inl (peerNotify_works c s)
  | peerReadOut =>
    cases hs
    exact .inl ((Works.refl s).note rfl rfl rfl rfl rfl)
  | peerLoad off width => exact .inl (peerLoad_works hs)
  | peerStore off bytes => exact .inl (peerStore_works hs)
  | command => exact commandStep_advances hs
  | continuation => exact .inl (continuationStep_works hs)
  | notification =>
    cases hs
    exact .inl (notificationStep_works s)
  | reset => exact absurd rfl ha

/-- Every step advances the machine, or is the reset that is scheduled; the schedule plays no part in either. -/
theorem step_advances (hs : step s = .next t) :
    Advances s t ∨
      (s.agenda.head? = some .reset ∧ t = State.powerOn s.cfg s.window s.hostMem s.agenda.tail) := by
  rw [step_nextTurn] at hs
  by_cases ha : nextTurn s = .reset
  · rw [ha] at hs
    cases hs
    exact .inr ⟨head?_of_nextTurn_reset ha, rfl⟩
  · exact .inl (turnStep_advances ha hs :)

/-! ### The statements about every step -/

/-- Work leaves BUSY and adds neither side of the balance. -/
theorem HistoryBalanced.works (h : HistoryBalanced s) (hw : Works n s t) : HistoryBalanced t := by
  obtain ⟨hc, es, hh, -, hstart, hdone⟩ := hw
  unfold HistoryBalanced at h ⊢
  rw [(completion_eq_iff.1 hc).1, hh, List.countP_append, List.countP_append, hstart, hdone, Nat.zero_add, Nat.zero_add]
  exact h

theorem HistoryBalanced.accept (h : HistoryBalanced s) (hb : s.busy = false) (w : Word) : HistoryBalanced (accept w s) := by
  simpa [HistoryBalanced, hb, List.countP_cons, isCmdStart, isCmdDone] using h

theorem HistoryBalanced.finish (h : HistoryBalanced s) (hb : s.busy = true) (code : ResultCode) :
    HistoryBalanced (finish code s) := by
  simpa [HistoryBalanced, hb, List.countP_cons, isCmdStart, isCmdDone] using h

theorem HistoryBalanced.advances (h : HistoryBalanced s) (ha : Advances s t) : HistoryBalanced t := by
  rcases ha with hw | ⟨hb, w, u, hw, rfl⟩ | ⟨hb, code, u, hw, rfl⟩
  · exact h.works hw
  · exact (h.works hw).accept ((completion_eq_iff.1 hw.1).1.trans hb) w
  · exact (h.works hw).finish ((completion_eq_iff.1 hw.1).1.trans hb) code

theorem powerOn_historyBalanced (c : Config) (w m : Memory) (a : List Turn) : HistoryBalanced (State.powerOn c w m a) := rfl

/-- Settles O9: an acceptance adds a CmdStart as it sets BUSY, a `finish` a CmdDone as it clears it, and nothing else adds
either. -/
theorem everyAcceptanceHasOneCompletion : Obligations.EveryAcceptanceHasOneCompletion := by
  refine ⟨powerOn_historyBalanced, fun s t h hs => ?_⟩
  rcases step_advances hs with ha | ⟨-, rfl⟩
  · exact h.advances ha
  · exact powerOn_historyBalanced _ _ _ _

/-- Settles O8: only `finish` writes RESULT. -/
theorem resultIsWrittenOnlyAtCompletion : Obligations.ResultIsWrittenOnlyAtCompletion := by
  intro s t hs
  rcases step_advances hs with (⟨hc, -⟩ | ⟨-, w, u, ⟨hc, -⟩, rfl⟩ | ⟨hb, code, u, ⟨hc, -⟩, rfl⟩) | ⟨hreset, -⟩
  · obtain ⟨-, -, hcode, hop⟩ := completion_eq_iff.1 hc
    exact .inl ⟨hcode, hop⟩
  · obtain ⟨-, -, hcode, hop⟩ := completion_eq_iff.1 hc
    exact .inl ⟨hcode, hop⟩
  · obtain ⟨-, hcmdw, -, -⟩ := completion_eq_iff.1 hc
    rw [← hcmdw]
    exact .inr (.inr ⟨hb, rfl, rfl, rfl⟩)
  · exact .inr (.inl hreset)

/-- Settles O11: the events of acceptance and completion are no accesses, so those of the work are all there are. -/
theorem oneEngineAccessPerStep : Obligations.OneEngineAccessPerStep := by
  intro s t hs hreset
  rcases step_advances hs with
    (⟨-, es, hh, ha, -⟩ | ⟨-, w, u, ⟨-, es, hh, ha, -⟩, rfl⟩ | ⟨-, code, u, ⟨-, es, hh, ha, -⟩, rfl⟩) | ⟨h, -⟩
  · exact ⟨es, hh, ha⟩
  · refine ⟨.cmdStart (opcodeField w) :: es, by rw [accept_history, hh, List.cons_append], ?_⟩
    rw [List.countP_cons_of_neg (by simp [engineAccess])]
    omega
  · refine ⟨.cmdDone (opcodeField u.cmdw) code :: es, by rw [finish_history, hh, List.cons_append], ?_⟩
    rwa [List.countP_cons_of_neg (by simp [engineAccess])]
  · exact absurd h hreset

end Sys2Proof.Machine

/-! PROOFS. The two ends of a command's run: its decoding and first step (30_encoding.md R76, 60_exceptions.md R127), and
`finish` (R119). -/

namespace Sys2Proof.Machine

variable {s : State} {i : Instr}

/-! ### From the accepted word to the command -/

theorem commandStep_idle (hb : s.busy = false) : commandStep s = .next s := by
  rw [commandStep, if_neg (by simp [hb])]

theorem commandStep_decode (hb : s.busy = true) (hc : currentCommand s = some i) (hp : s.phase = .decode) :
    commandStep s = .next { s with phase := .start } := by
  rcases commandStep_cases hb with ⟨hn, -⟩ | ⟨j, -, ⟨-, he⟩ | ⟨hd, -⟩⟩
  · exact absurd (hc.symm.trans hn) nofun
  · exact he
  · exact absurd hp hd

theorem commandStep_exec (hb : s.busy = true) (hc : currentCommand s = some i) (hp : s.phase ≠ .decode) :
    commandStep s = exec i s := by
  rcases commandStep_cases hb with ⟨hn, -⟩ | ⟨j, hj, ⟨hd, -⟩ | ⟨-, he⟩⟩
  · exact absurd (hc.symm.trans hn) nofun
  · exact absurd hd hp
  · rw [he, Option.some.inj (hj.symm.trans hc)]

/-- Log 10: the Command unit steps next on a placed word, whatever is scheduled or enabled, and its turn leaves the rest of
the schedule as it was. -/
theorem step_placeCommand (w : Word) (s : State) : step (placeCommand w s) = commandStep (acceptedAndDecoded w s) := by
  unfold placeCommand
  simp only
  split
  · next h =>
    simp only [Bool.and_eq_true, Bool.not_eq_true', List.isEmpty_iff] at h
    obtain ⟨⟨hag, hnotif⟩, hcont⟩ := h
    rw [step_prompt hag, promptStep, if_neg (by simp [hnotif]), if_neg (by simp [hcont])]
  · exact step_command rfl

theorem withFetchWord_eq_placeCommand (s : State) (w : Word) : s.withFetchWord 32 w.toNat = placeCommand w s := by
  rw [State.withFetchWord, Nat.mod_eq_of_lt w.isLt, BitVec.ofNat_toNat, BitVec.setWidth_eq]

/-- Settles O4: the three kinds of Command-unit step, and a placed word past its decoding. -/
theorem commandTurnRunsTheDecodedCommand : Obligations.CommandTurnRunsTheDecodedCommand := by
  refine ⟨fun s rest i hag hb hc => ⟨fun hp => ?_, step_exec hag hb hc⟩, fun s rest hag hb => ?_, fun s w i hc => ?_⟩
  · rw [step_command hag, commandStep_decode (s := { s with agenda := rest }) hb hc hp]
  · rw [step_command hag, commandStep_idle (s := { s with agenda := rest }) hb]
  · have hp : (acceptedAndDecoded w s).phase ≠ .decode := by simp [acceptedAndDecoded]
    rw [withFetchWord_eq_placeCommand, step_placeCommand]
    exact commandStep_exec rfl hc hp

/-! ### The end of a command -/

/-- Settles O6: the Command unit's lock is the one `finish` drops. -/
theorem finishEndsTheCommand : Obligations.FinishEndsTheCommand := by
  intro code s
  rw [← dropCommand_eq_ite]
  rfl

end Sys2Proof.Machine

/-! PROOFS. What a reset turn leaves (70_reset_and_hazards.md R137 to R139), and the invariant right after it. -/

namespace Sys2Proof.Machine

variable {s : State}

theorem step_reset {rest : List Turn} (h : s.agenda = .reset :: rest) :
    step s = .next (State.powerOn s.cfg s.window s.hostMem rest) := by
  rw [step_turn h]
  rfl

/-- R138, register by register: the views, whose words are composed of the reset values of their fields, and the
registers that are a field of their own. -/
theorem readReg_powerOn (c : Config) (w m : Memory) (a : List Turn) (r : Reg) :
    readReg (State.powerOn c w m a) r = resetValue c r := by
  cases r
  case ctrl => rw [readReg, ctrlWord_eq]; rfl
  case mapInfo => rw [readReg, mapInfoWord_eq]; rfl
  case status | result | mbxInView | mbxOutView | lastUnrecog =>
    simp only [readReg, statusWord, resultWord, mbxInWord, mbxOutWord, lastUnrecogWord, State.powerOn]
    rfl
  all_goals rfl

/-- 10_state.md R21: an offset with no register reads 0, at any width. -/
theorem hostReadValue_of_regAt_none {off : Nat} (width : Nat) (h : regAt off = none) : hostReadValue off width s = 0#32 := by
  simp only [hostReadValue, h, ite_self]

/-- Settles O14: the next state is `State.powerOn`, whose words are R138's and whose hidden items are its fields. -/
theorem resetSetsEveryRegister : Obligations.ResetSetsEveryRegister := by
  intro s rest hag
  have hirq : hostIrq (State.powerOn s.cfg s.window s.hostMem rest) = false := hostIrqIsTheMaskedOr.2 _ _ _ _
  refine ⟨_, step_reset hag, readReg_powerOn _ _ _ _, fun _ => hostReadValue_of_regAt_none 4, ?_⟩
  simp only [hirq, true_and]
  simp only [State.powerOn, Operands.zero, and_self]

/-- Settles O15: EX is one of the configurations, and the empty memories are canonical ones. -/
theorem invariantAtReset : Obligations.InvariantAtReset :=
  ⟨powerOn_invariant, powerOn_invariant Config.ex [] [] [] rfl rfl rfl rfl⟩

end Sys2Proof.Machine
